-- ==== Sys2Proof/Word.lean ====
section
/-! DEFINITION. The byte, the byte string and the channel id (00_scope.md R9, 10_state.md R23). -/

namespace Sys2Proof

/-- A byte: 8 bits, unsigned (R9). -/
abbrev Byte := BitVec 8

/-- A byte string; its head is the first byte on the wire (R9). -/
abbrev Bytes := List Byte

/-- A channel id: a 4-byte string, not an integer; `b0` is first on the wire (20_memory.md R64). -/
structure ChannelId where
  b0 : Byte
  b1 : Byte
  b2 : Byte
  b3 : Byte
deriving DecidableEq, Repr

end Sys2Proof
end

