-- ==== Sys2Proof/Config.lean ====
section
/-! DEFINITION. The parameters of 00_scope.md R6 and the values the spec leaves open. The rows of R6 marked source
or derived are numerals; what is open is opaque, so that no proof can see a value of it. -/

namespace Sys2Proof

/-- `CH_BYTES`: length of a channel id (R6). -/
@[simp] abbrev Config.chBytes : Nat := 4
/-- `HDR_INIT`: header length of an initial frame (R6). -/
@[simp] abbrev Config.hdrInit : Nat := 7
/-- `HDR_CONT`: header length of a continuation frame (R6). -/
@[simp] abbrev Config.hdrCont : Nat := 5
/-- `MTU_MIN`: least admitted mtu (R6). -/
@[simp] abbrev Config.mtuMin : Nat := 8
/-- `LEN_MAX`: greatest payload length (R6). -/
@[simp] abbrev Config.lenMax : Nat := 65535
/-- `CONT_MAX`: greatest number of continuation frames (R6). -/
@[simp] abbrev Config.contMax : Nat := 128
/-- `FRAMES_MAX` and `FIFO_DEPTH`: greatest number of frames of one message (R6). -/
@[simp] abbrev Config.framesMax : Nat := 129
/-- `ACC_CAP`: capacity of space ACC in bytes (R6). -/
@[simp] abbrev Config.accCap : Nat := 65535
/-- `INFO_REPORT_LEN`: size of the info report (R6). -/
@[simp] abbrev Config.infoReportLen : Nat := 64
/-- `CHANNEL_ID`'s reset value EE EE EE EE (R6, 10_state.md R50). -/
@[simp] abbrev Config.channelReset : ChannelId := ⟨0xEE#8, 0xEE#8, 0xEE#8, 0xEE#8⟩

/-- What a field of the register view reads as while it holds no value (10_state.md R39, U4): any value. The first
argument is the number of the draw, the second the register read. Opaque: assumption log entry 8. -/
opaque Config.noValue : Nat → Nat → BitVec 32

/-- `SPEEDTEST_PATTERN`, a function from byte offset to byte, open (45_command_builder_pseudo_ops.md R238, U10). -/
opaque Config.speedtestPattern : Nat → Byte

/-- `SPEEDTEST_COMMAND`, open (R238, U10). -/
opaque Config.speedtestCommand : Byte

/-- `RX_TIMEOUT_MS`, open and owned by the environment (46_link_config_ops.md R251, U9); the block has no timer,
so nothing of the model reads it. -/
opaque Config.rxTimeoutMs : Nat

end Sys2Proof
end

