-- ==== Sys2Proof/Syntax.lean ====
section
/-! DEFINITION. The operations of the block, one constructor per row of spec/opcode_table.json
(30_encoding.md R100, R101), and the ports they arrive at. -/

namespace Sys2Proof

/-- An operation of the block, or a frame of one of the three wire shapes arriving at it. The sampled inputs `now` and
`currentMtu()` are operands, as in the rows' fields (assumption log entry 5). -/
inductive Instr where
  /-- `ENCODE` (R130). -/
  | encode (command : Byte) (payload : Bytes) (mtu : BitVec 16)
  /-- `DECODE_INITIAL` (R151). -/
  | decodeInitial (frame : Bytes) (accChannel : Option ChannelId)
  /-- `DECODE_CONT` (R152). -/
  | decodeCont (frame : Bytes) (accChannel : Option ChannelId)
  /-- `RX_NOTIFY` (R166). -/
  | rxNotify (buffer : Bytes)
  /-- `RX_TIMEOUT` (R251). -/
  | rxTimeout
  /-- `LINK_DISCONNECT` (R250). -/
  | linkDisconnect
  /-- `TX_START` (R191). -/
  | txStart (frames : List Bytes) (totalBytes : BitVec 16) (now : BitVec 32)
  /-- `TX_SUBMIT` (R195). -/
  | txSubmit
  /-- `TX_CONFIRM` (R198). -/
  | txConfirm (index : BitVec 8) (err : Bool) (now : BitVec 32)
  /-- `METER` (R220). -/
  | meter (totalBytes : BitVec 16) (start : BitVec 32) (now : BitVec 32)
  /-- `CFG_SET_CHANNEL` (R253). -/
  | cfgSetChannel (channel : ChannelId)
  /-- `SEND` (R203). -/
  | send (command : Byte) (payload : Bytes) (mtu : BitVec 16) (now : BitVec 32)
  /-- `RESET` (R254). -/
  | reset
  /-- The reserved operation code `0x0` (R105). -/
  | reserved0
  /-- The reserved operation code `0xD` (R105). -/
  | reservedD
  /-- The reserved operation code `0xE` (R105). -/
  | reservedE
  /-- A frame of the initial shape (R91) arriving from the transport (assumption log entry 11). -/
  | frameInitial (channel : ChannelId) (command : Byte) (declaredLen : BitVec 16) (chunk : Bytes)
  /-- A frame of the continuation shape (R92) arriving from the transport (assumption log entry 11). -/
  | frameContinuation (channel : ChannelId) (seq : Byte) (chunk : Bytes)
  /-- An info report (R93) arriving from the transport (assumption log entry 11). -/
  | infoReport (channel : ChannelId)
deriving DecidableEq, Repr

/-- The three wire shapes (R90). -/
inductive WireShape where
  | initial
  | continuation
  | infoReport
deriving DecidableEq, Repr

/-- Where a transaction arrives: the command port, or the wire, labelled with the shape its SENDER made
(the block itself tells the kind of a frame by `rx` alone, R97; assumption log entry 12). -/
inductive Port where
  | command
  | wire (shape : WireShape)
deriving DecidableEq, Repr

/-- The port an operation or a frame arrives at. -/
def Instr.port : Instr → Port
  | .encode _ _ _ => .command
  | .decodeInitial _ _ => .command
  | .decodeCont _ _ => .command
  | .rxNotify _ => .command
  | .rxTimeout => .command
  | .linkDisconnect => .command
  | .txStart _ _ _ => .command
  | .txSubmit => .command
  | .txConfirm _ _ _ => .command
  | .meter _ _ _ => .command
  | .cfgSetChannel _ => .command
  | .send _ _ _ _ => .command
  | .reset => .command
  | .reserved0 => .command
  | .reservedD => .command
  | .reservedE => .command
  | .frameInitial _ _ _ _ => .wire .initial
  | .frameContinuation _ _ _ => .wire .continuation
  | .infoReport _ => .wire .infoReport

end Sys2Proof
end

