-- ==== Sys2Proof/WellFormed.lean ====
section
/-! DEFINITION. When the operands of an operation lie in the domain 30_encoding.md R101 gives them. The widths of
fixed-size operands are in their types; what is left is lengths. -/

namespace Sys2Proof

/-- The domain of `TX_START` (43_outbound_sequencer.md R194): 1..129 frames, each of 1..65535 bytes. -/
abbrev framesInDomain (frames : List Bytes) : Prop :=
  (1 ≤ frames.length ∧ frames.length ≤ Config.framesMax) ∧
    ∀ f ∈ frames, 1 ≤ f.length ∧ f.length ≤ 65535

/-- Operands inside their stated domain: payload lengths fit the 32-bit length operand (R6 `LEN_W`), inbound buffers
and decoder frames hold at most 65535 bytes (R101, U7), `TX_START` meets R194. -/
def Instr.WellFormed : Instr → Prop
  | .encode _ payload _ => payload.length < 4294967296
  | .decodeInitial frame _ => frame.length ≤ 65535
  | .decodeCont frame _ => frame.length ≤ 65535
  | .rxNotify buffer => buffer.length ≤ 65535
  | .rxTimeout => True
  | .linkDisconnect => True
  | .txStart frames _ _ => framesInDomain frames
  | .txSubmit => True
  | .txConfirm _ _ _ => True
  | .meter _ _ _ => True
  | .cfgSetChannel _ => True
  | .send _ payload _ _ => payload.length < 4294967296
  | .reset => True
  | .reserved0 => True
  | .reservedD => True
  | .reservedE => True
  | .frameInitial _ _ _ chunk => Config.hdrInit + chunk.length ≤ 65535
  | .frameContinuation _ _ chunk => Config.hdrCont + chunk.length ≤ 65535
  | .infoReport _ => True

end Sys2Proof
end

