-- ==== Sys2Proof/Decode.lean ====
section
/-! DEFINITION. Byte order (20_memory.md R64), the layouts of frames (30_encoding.md R91, R92, R93), the decoder of what
arrives at a port and the encoder. Operation codes are R100's; the byte layout of an operation's operands is the
model's own (assumption log entries 2, 3, 4). -/

namespace Sys2Proof

/-! Byte order: big-endian everywhere (R64). -/

/-- `be16(v)`: high byte first (00_scope.md R10). -/
def be16 (v : BitVec 16) : Bytes :=
  [BitVec.ofNat 8 (v.toNat / 256), BitVec.ofNat 8 (v.toNat % 256)]

/-- `ube16(h, l)` = `256*h + l` (R10). -/
def ube16 (h l : Byte) : BitVec 16 :=
  BitVec.ofNat 16 (256 * h.toNat + l.toNat)

/-- A 32-bit operand, high byte first. -/
def be32 (v : BitVec 32) : Bytes :=
  [BitVec.ofNat 8 (v.toNat / 16777216), BitVec.ofNat 8 (v.toNat / 65536 % 256),
   BitVec.ofNat 8 (v.toNat / 256 % 256), BitVec.ofNat 8 (v.toNat % 256)]

/-- The 32-bit operand of four bytes, high byte first. -/
def ube32 (a b c d : Byte) : BitVec 32 :=
  BitVec.ofNat 32 (16777216 * a.toNat + 65536 * b.toNat + 256 * c.toNat + d.toNat)

/-- The four bytes of a channel id in wire order (R64). -/
def ChannelId.bytes (c : ChannelId) : Bytes := [c.b0, c.b1, c.b2, c.b3]

/-! Frame layouts. -/

/-- An initial frame: ChannelId(4) ‖ Command(1) ‖ LengthHi(1) ‖ LengthLo(1) ‖ payload-chunk (R91). -/
def initialFrame (channel : ChannelId) (command : Byte) (declaredLen : BitVec 16) (chunk : Bytes) : Bytes :=
  channel.bytes ++ command :: (be16 declaredLen ++ chunk)

/-- A continuation frame: ChannelId(4) ‖ SequenceNumber(1) ‖ payload-chunk (R92). -/
def continuationFrame (channel : ChannelId) (seq : Byte) (chunk : Bytes) : Bytes :=
  channel.bytes ++ seq :: chunk

/-- The 64-byte info report (R93): channel, C1, 00 01, 'i', 56 bytes of 00. -/
def infoReportFrame (channel : ChannelId) : Bytes :=
  channel.bytes ++ [0xC1#8, 0x00#8, 0x01#8, 0x69#8] ++ List.replicate 56 0x00#8

/-! The decoder. -/

/-- Why a record presented at the command port is no operation: it does not hold the operands of R101 (log entry 2). -/
inductive DecodeReject where
  /-- The record ends before its operands do. -/
  | truncated
  /-- A one-bit operand's byte is neither 00 nor 01. -/
  | badFlag
deriving DecidableEq, Repr

/-- What a reader answers: a value and the rest of the bytes, or a rejection by name. -/
abbrev Read (α : Type) := Except DecodeReject (α × Bytes)

/-- Read one thing, then go on with it and the rest of the bytes; the first rejection stands. -/
def andThen {α β : Type} (x : Read α) (f : α → Bytes → Read β) : Read β :=
  match x with
  | .ok (a, r) => f a r
  | .error e => .error e

/-- One byte. -/
def readByte : Bytes → Read Byte
  | b :: r => .ok (b, r)
  | [] => .error .truncated

/-- A 16-bit operand. -/
def readU16 : Bytes → Read (BitVec 16)
  | h :: l :: r => .ok (ube16 h l, r)
  | _ => .error .truncated

/-- A 32-bit operand. -/
def readU32 : Bytes → Read (BitVec 32)
  | a :: b :: c :: d :: r => .ok (ube32 a b c d, r)
  | _ => .error .truncated

/-- A channel id. -/
def readChannel : Bytes → Read ChannelId
  | a :: b :: c :: d :: r => .ok (⟨a, b, c, d⟩, r)
  | _ => .error .truncated

/-- A one-bit operand, held in a byte of 00 or 01. -/
def readFlag : Bytes → Read Bool
  | b :: r => if b = 0#8 then .ok (false, r) else if b = 1#8 then .ok (true, r) else .error .badFlag
  | [] => .error .truncated

/-- An optional channel id: a flag byte, then the channel when the flag is 01. -/
def readOptChannel (bs : Bytes) : Read (Option ChannelId) :=
  andThen (readFlag bs) fun present r =>
  if present then
    andThen (readChannel r) fun c r =>
    .ok (some c, r)
  else
    .ok (none, r)

/-- The next `n` bytes. -/
def readBytes (n : Nat) (bs : Bytes) : Read Bytes :=
  if n ≤ bs.length then .ok (bs.take n, bs.drop n) else .error .truncated

/-- A byte string behind its 16-bit length. -/
def readBlob16 (bs : Bytes) : Read Bytes :=
  andThen (readU16 bs) fun n r =>
  readBytes n.toNat r

/-- A byte string behind its 32-bit length (`LEN_W`, R6). -/
def readBlob32 (bs : Bytes) : Read Bytes :=
  andThen (readU32 bs) fun n r =>
  readBytes n.toNat r

/-- `n` frames, each behind a 16-bit field holding its length less 1 (log entry 3). -/
def readFrames : Nat → Bytes → Read (List Bytes)
  | 0, bs => .ok ([], bs)
  | n + 1, bs =>
    andThen (readU16 bs) fun len r =>
    andThen (readBytes (len.toNat + 1) r) fun f r =>
    andThen (readFrames n r) fun fs r =>
    .ok (f :: fs, r)

/-- The operands of the operation with the given 4-bit code (R100), and the rest of the bytes. Their order is R101's but for
ENCODE and SEND (the payload last), the decoders (`acc_channel` first) and TX_START (the number of frames first, then
`total_bytes` and `now`, the frames last). DESIGN CHOICE, unsafe for claims about a record's bytes (log entries 2, 3). -/
def decodeOperands (code : Nat) (bs : Bytes) : Read Instr :=
  match code with
  | 0x0 => .ok (.reserved0, bs)
  | 0x1 =>
    andThen (readByte bs) fun command r =>
    andThen (readU16 r) fun mtu r =>
    andThen (readBlob32 r) fun payload r =>
    .ok (.encode command payload mtu, r)
  | 0x2 =>
    andThen (readOptChannel bs) fun ch r =>
    andThen (readBlob16 r) fun frame r =>
    .ok (.decodeInitial frame ch, r)
  | 0x3 =>
    andThen (readOptChannel bs) fun ch r =>
    andThen (readBlob16 r) fun frame r =>
    .ok (.decodeCont frame ch, r)
  | 0x4 =>
    andThen (readBlob16 bs) fun buffer r =>
    .ok (.rxNotify buffer, r)
  | 0x5 => .ok (.rxTimeout, bs)
  | 0x6 => .ok (.linkDisconnect, bs)
  | 0x7 =>
    andThen (readByte bs) fun count r =>
    andThen (readU16 r) fun total r =>
    andThen (readU32 r) fun now r =>
    andThen (readFrames (count.toNat + 1) r) fun frames r =>
    .ok (.txStart frames total now, r)
  | 0x8 => .ok (.txSubmit, bs)
  | 0x9 =>
    andThen (readByte bs) fun index r =>
    andThen (readFlag r) fun err r =>
    andThen (readU32 r) fun now r =>
    .ok (.txConfirm index err now, r)
  | 0xA =>
    andThen (readU16 bs) fun total r =>
    andThen (readU32 r) fun start r =>
    andThen (readU32 r) fun now r =>
    .ok (.meter total start now, r)
  | 0xB =>
    andThen (readChannel bs) fun ch r =>
    .ok (.cfgSetChannel ch, r)
  | 0xC =>
    andThen (readByte bs) fun command r =>
    andThen (readU16 r) fun mtu r =>
    andThen (readU32 r) fun now r =>
    andThen (readBlob32 r) fun payload r =>
    .ok (.send command payload mtu now, r)
  | 0xD => .ok (.reservedD, bs)
  | 0xE => .ok (.reservedE, bs)
  | _ => .ok (.reset, bs)   -- 0xF: a 4-bit code leaves nothing else

/-- A record of the command port: the operation code in bits 3..0 of its first byte (the table's mask 0xF; bits 7..4
are not examined, log entry 4), then the operands. -/
def decodeCommand : Bytes → Read Instr
  | op :: bs => decodeOperands (op.toNat % 16) bs
  | [] => .error .truncated

/-- A buffer on the wire, read by the layout of the shape it is labelled with (R94); the whole buffer is one frame. A buffer
that has not that shape is still one notification (R73): shorter than its header it raises `FrameTooShort` (20_memory.md R65),
and a report's padding may be anything (R105 (f)). No buffer is rejected (log entry 12). -/
def decodeWire : WireShape → Bytes → Instr
  | .initial, a :: b :: c :: d :: command :: h :: l :: chunk => .frameInitial ⟨a, b, c, d⟩ command (ube16 h l) chunk
  | .initial, buffer => .rxNotify buffer
  | .continuation, a :: b :: c :: d :: seq :: chunk => .frameContinuation ⟨a, b, c, d⟩ seq chunk
  | .continuation, buffer => .rxNotify buffer
  | .infoReport, a :: b :: c :: d :: rest =>
    if infoReportFrame ⟨a, b, c, d⟩ = a :: b :: c :: d :: rest then .infoReport ⟨a, b, c, d⟩
    else .rxNotify (a :: b :: c :: d :: rest)
  | .infoReport, buffer => .rxNotify buffer

/-- What arrives at a port, decoded: an operation and the bytes after it, or, for a record only, a rejection by name. Total on
any bytes. -/
def decode : Port → Bytes → Read Instr
  | .command, bs => decodeCommand bs
  | .wire shape, bs => .ok (decodeWire shape bs, [])

/-! The encoder. -/

/-- A one-bit operand as a byte. -/
def flagByte (b : Bool) : Byte := if b then 1#8 else 0#8

/-- An optional channel id as bytes. -/
def optChannelBytes : Option ChannelId → Bytes
  | none => [flagByte false]
  | some c => flagByte true :: c.bytes

/-- A byte string behind its 16-bit length. -/
def blob16 (bs : Bytes) : Bytes := be16 (BitVec.ofNat 16 bs.length) ++ bs

/-- A byte string behind its 32-bit length. -/
def blob32 (bs : Bytes) : Bytes := be32 (BitVec.ofNat 32 bs.length) ++ bs

/-- Frames, each behind its length less 1 (log entry 3). -/
def framesBytes : List Bytes → Bytes
  | [] => []
  | f :: fs => be16 (BitVec.ofNat 16 (f.length - 1)) ++ (f ++ framesBytes fs)

/-- The bytes of an operation on its port: for an operation its code (R100) and its operands, for a frame its wire
layout (R91, R92, R93). -/
def encode : Instr → Bytes
  | .encode command payload mtu => 0x01#8 :: command :: (be16 mtu ++ blob32 payload)
  | .decodeInitial frame ch => 0x02#8 :: (optChannelBytes ch ++ blob16 frame)
  | .decodeCont frame ch => 0x03#8 :: (optChannelBytes ch ++ blob16 frame)
  | .rxNotify buffer => 0x04#8 :: blob16 buffer
  | .rxTimeout => [0x05#8]
  | .linkDisconnect => [0x06#8]
  | .txStart frames total now =>
    0x07#8 :: BitVec.ofNat 8 (frames.length - 1) :: (be16 total ++ (be32 now ++ framesBytes frames))
  | .txSubmit => [0x08#8]
  | .txConfirm index err now => 0x09#8 :: index :: flagByte err :: be32 now
  | .meter total start now => 0x0A#8 :: (be16 total ++ (be32 start ++ be32 now))
  | .cfgSetChannel ch => 0x0B#8 :: ch.bytes
  | .send command payload mtu now => 0x0C#8 :: command :: (be16 mtu ++ (be32 now ++ blob32 payload))
  | .reset => [0x0F#8]
  | .reserved0 => [0x00#8]
  | .reservedD => [0x0D#8]
  | .reservedE => [0x0E#8]
  | .frameInitial ch command len chunk => initialFrame ch command len chunk
  | .frameContinuation ch seq chunk => continuationFrame ch seq chunk
  | .infoReport ch => infoReportFrame ch

/-! One table word, for the host. -/

/-- The port a row of the given width arrives at: the wire headers of R91, R92, R93 are 56, 40 and 512 bits wide, a
row of any other width is an operation code. -/
def portOfWidth (nbits : Nat) : Port :=
  if nbits = 56 then .wire .initial
  else if nbits = 40 then .wire .continuation
  else if nbits = 512 then .wire .infoReport
  else .command

/-- The bytes of a table word, bits 7..0 first, and on the command port 16 bytes of zeros after them, so that the
operands the table gives no bits are zeros. -/
def bytesOfWord (nbits w : Nat) : Bytes :=
  (List.range ((nbits + 7) / 8)).map (fun k => BitVec.ofNat 8 (w / 2 ^ (8 * k)))
    ++ (if portOfWidth nbits = .command then List.replicate 16 0#8 else [])

/-- The operation the decoder reads from a table word. -/
def decodeTableWord (nbits w : Nat) : Option Instr :=
  match decode (portOfWidth nbits) (bytesOfWord nbits w) with
  | .ok (i, _) => some i
  | .error _ => none

end Sys2Proof
end

