-- ==== Sys2Proof/Machine/State.lean ====
section
/-! DEFINITION. The state of the block (10_state.md R20, complete), the environment state the spec asks a model to carry
beside it (R46), and the model's own fields: the transactions presented, the last result, the output stream and the
counter of free values. Plain data. -/

namespace Sys2Proof.Machine

/-- The nine error kinds (60_exceptions.md R266). An error is a RESULT of an operation, never a fault of the machine
(R265). Only `WriteFailed` records anything: the frame index. -/
inductive BlockError where
  | mtuTooSmall
  | payloadTooLarge
  | frameTooShort
  | channelMismatch
  | outOfOrderFrame
  | overlongMessage
  | incompleteMessage
  | writeFailed (index : BitVec 8)
  | sessionBusy
deriving DecidableEq, Repr

/-- An item of an output list (30_encoding.md R102). -/
inductive Output where
  /-- One call of the transport's `submitFrame(bytes)`. -/
  | submit (frame : Bytes)
  /-- A reassembled message, for the host. -/
  | messageReceived (channel : ChannelId) (command : Byte) (payload : Bytes)
  /-- A completed transfer, for the host; `rate` is `none` exactly when `indeterminate` (R223). -/
  | transferCompleted (totalBytes : BitVec 16) (elapsedMs : BitVec 32) (indeterminate : Bool)
      (rate : Option (BitVec 32))
  /-- An error event, for the host. -/
  | error (e : BlockError)
deriving DecidableEq, Repr

/-- An initial frame taken apart: `DECODE_INITIAL`'s result (R94, R151). -/
structure InitialParts where
  channel : ChannelId
  command : Byte
  declaredLen : BitVec 16
  chunk : Bytes
deriving DecidableEq, Repr

/-- A continuation frame taken apart: `DECODE_CONT`'s result (R94, R152). -/
structure ContinuationParts where
  channel : ChannelId
  seq : Byte
  chunk : Bytes
deriving DecidableEq, Repr

/-- The bandwidth meter's result (44_bandwidth_meter.md R220). -/
structure MeterResult where
  elapsedMs : BitVec 32
  indeterminate : Bool
  rate : Option (BitVec 32)
deriving DecidableEq, Repr

/-- What an operation returns to its issuer (30_encoding.md R101). -/
inductive OpResult where
  /-- No operation has been performed yet. -/
  | nothing
  /-- Success with no value. -/
  | done
  /-- `ENCODE`'s frame list. -/
  | frames (fs : List Bytes)
  /-- `DECODE_INITIAL`'s parts. -/
  | initialParts (p : InitialParts)
  /-- `DECODE_CONT`'s parts. -/
  | continuationParts (p : ContinuationParts)
  /-- `METER`'s result. -/
  | metered (m : MeterResult)
  /-- The value of a register of the read view. -/
  | register (v : BitVec 32)
  /-- The operation raised an error (R265). -/
  | error (e : BlockError)
deriving DecidableEq, Repr

/-- `tx_status` (R30). -/
inductive TxStatus where
  | idle
  | pending
  | completed
  | failed
deriving DecidableEq, Repr

/-- The reassembler's accumulator (R24 to R29), but for its bytes, which lie in space ACC at addresses below `fill`
(20_memory.md R61). -/
structure Accumulator where
  /-- `rx.channel` (R25). -/
  channel : ChannelId
  /-- `rx.command` (R26). -/
  command : Byte
  /-- `rx.declared_len` (R27). -/
  declaredLen : BitVec 16
  /-- The fill level, `len(rx.buf)` (20_memory.md R61). -/
  fill : BitVec 16
  /-- `rx.expected_seq`, 0..128 (R29). -/
  expectedSeq : BitVec 8
deriving DecidableEq, Repr

/-- A byte space as (address, byte) cells. Canonical form: addresses strictly rising. An unlisted address holds no
specified value (R50, U5; assumption log entry 9). -/
abbrev Memory := List Host.Cell

/-- The canonical form of space ACC's cells: addresses strictly rising and inside the space (20_memory.md R61). An
unlisted address reads as no value, so no listed byte can equal it. -/
abbrev Memory.wf (m : Memory) : Prop :=
  (m.map Prod.fst).Pairwise (· < ·) ∧ ∀ c ∈ m, c.1 < Config.accCap

/-- A transaction presented to the block and not yet performed (assumption log entries 1, 12, 19). -/
inductive Presented where
  /-- Bytes at a port: an operation's record, or a frame on the wire. -/
  | transaction (port : Port) (bytes : Bytes)
  /-- A host read of register `n` of the read view (R39). -/
  | readRegister (n : Nat)
deriving DecidableEq, Repr

/-- Machine faults: none. "The block never stops, halts or locks up because of an error; it has no fault state" (R265);
the nine error kinds are results (assumption log entry 25). -/
inductive Fault where
deriving DecidableEq, Repr

/-- Why a step has no meaning. Every one is safe: the model stops, and a claim that needs the step is unprovable. -/
inductive Refusal where
  /-- Raised by a rejected arm of `exec` only; safe. -/
  | notModelled (mnemonic : String)
  /-- Raised by the reserved operation codes 0x0, 0xD, 0xE (R105 (a), U1); safe: the spec asks for the refusal. -/
  | reservedCode (code : BitVec 4)
  /-- Raised by `TX_START` outside its domain (R194, U2); safe: the spec asks for the refusal. -/
  | txStartOutsideDomain
  /-- Raised by a presented `TX_SUBMIT` on an empty FIFO, where "the step does not exist" (R195); safe. -/
  | submitNotEnabled
  /-- Raised by the fetch on a record of the command port that does not hold the operands of R101, so that it is no operation;
  a buffer on the wire never raises it (00_scope.md R8, R17; log entry 2); safe. -/
  | undecodable (why : DecodeReject)
  /-- Raised by a read of a register number above 10, which R39 does not list; safe. -/
  | noSuchRegister (n : Nat)
deriving DecidableEq, Repr

/-- The state. The first fourteen fields are the block's, in the order of R20 (`acc` is the space that holds `rx.buf`);
the last five are the environment's and the model's own. -/
structure State where
  /-- `CHANNEL_ID` (R23). -/
  channelId : ChannelId
  /-- `rx` (R24). -/
  rx : Option Accumulator
  /-- Space ACC (20_memory.md R61). -/
  acc : Memory
  /-- `tx_status` (R30). -/
  txStatus : TxStatus
  /-- `tx_fifo`, head first (R31). -/
  txFifo : List Bytes
  /-- `tx_submitted` (R32). -/
  txSubmitted : BitVec 8
  /-- `tx_acked` (R33). -/
  txAcked : BitVec 8
  /-- `tx_start_ts` (R34). -/
  txStartTs : BitVec 32
  /-- `tx_total_bytes` (R35). -/
  txTotalBytes : BitVec 16
  /-- `m_valid` (R37). -/
  mValid : Bool
  /-- `m_total_bytes`, a value only when `m_valid` (R37). -/
  mTotalBytes : Option (BitVec 16)
  /-- `m_elapsed_ms`, a value only when `m_valid` (R37). -/
  mElapsedMs : Option (BitVec 32)
  /-- `m_indeterminate`, a value only when `m_valid` (R37). -/
  mIndeterminate : Option Bool
  /-- `m_rate`, a value only when `m_valid` and not `m_indeterminate` (R37). -/
  mRate : Option (BitVec 32)
  /-- Environment: indices of frames handed to the transport and not yet confirmed (R46; log entry 7). -/
  inflight : List (BitVec 8)
  /-- Model's own: the transactions presented, in the one total order of R70 (log entry 1). -/
  port : List Presented
  /-- Model's own: what the last operation returned (log entry 6). -/
  result : OpResult
  /-- Model's own: the output stream so far, oldest first (R13, R74; log entry 6). -/
  outputs : List Output
  /-- Model's own: how many free values have been drawn (log entry 8). -/
  draws : Nat
deriving DecidableEq, Repr

/-- The block right after reset: the table of R50. The last five fields are the model's (log entries 1, 6, 7, 8). -/
def State.reset : State where
  channelId := Config.channelReset
  rx := none
  acc := []
  txStatus := .idle
  txFifo := []
  txSubmitted := 0
  txAcked := 0
  txStartTs := 0
  txTotalBytes := 0
  mValid := false
  mTotalBytes := none
  mElapsedMs := none
  mIndeterminate := none
  mRate := none
  inflight := []
  port := []
  result := .nothing
  outputs := []
  draws := 0

end Sys2Proof.Machine
end

