-- ==== Sys2Proof/Machine/Ops.lean ====
section
/-! DEFINITION. The named operations over the state: space ACC, the frame FIFO, outputs and results, and raising an error,
which is this block's one form of exception (60_exceptions.md R265, R279). -/

namespace Sys2Proof.Machine

/-- What a step or a meaning answers. -/
abbrev Answer := Host.Outcome State Fault Refusal

/-! Space ACC: `MemRead` and `MemWrite` on cells (00_scope.md R12, 20_memory.md R61, R66). -/

/-- The byte at an address, if the space lists one. -/
def Memory.read : Memory → Nat → Option Byte
  | [], _ => none
  | c :: m, a => if c.1 = a then some c.2 else Memory.read m a

/-- Write one byte, keeping the addresses strictly rising. -/
def Memory.write : Memory → Nat → Byte → Memory
  | [], a, b => [(a, b)]
  | c :: m, a, b =>
    if a < c.1 then (a, b) :: c :: m
    else if c.1 = a then (a, b) :: m
    else c :: Memory.write m a b

/-- `MemWrite(ACC, addr, n, X)`: the bytes of `X` at consecutive addresses. -/
def Memory.writeBytes : Memory → Nat → Bytes → Memory
  | m, _, [] => m
  | m, a, b :: bs => Memory.writeBytes (Memory.write m a b) (a + 1) bs

/-- `MemRead(ACC, addr, n)`. In a state of the invariant every address read is listed; an unlisted one would give no byte
(log entry 9). -/
def Memory.readBytes : Memory → Nat → Nat → Bytes
  | _, _, 0 => []
  | m, a, n + 1 => (Memory.read m a).toList ++ Memory.readBytes m (a + 1) n

/-! Results, outputs, errors. -/

/-- Record what the operation returns. -/
def State.setResult (s : State) (r : OpResult) : State := { s with result := r }

/-- `emit` and `submit`: append one item to the output stream (R13). -/
def State.emit (s : State) (o : Output) : State := { s with outputs := s.outputs ++ [o] }

/-- The operation ends with the result `r`. -/
def finish (r : OpResult) (s : State) : Answer := .next (s.setResult r)

/-- `raise`: the operation ends at once; the error is its result and an `Error` event; what was written before stands;
nothing is saved, masked or transferred (R13, R265, R279). -/
def raise (e : BlockError) (s : State) : Answer := .next ((s.emit (.error e)).setResult (.error e))

/-! The accumulator. -/

/-- Create the accumulator from an initial frame: its chunk is the first of the buffer (R166). -/
def State.startRx (s : State) (f : InitialParts) : State :=
  { s with
    rx := some { channel := f.channel, command := f.command, declaredLen := f.declaredLen,
                 fill := BitVec.ofNat 16 f.chunk.length, expectedSeq := 0 }
    acc := Memory.writeBytes [] 0 f.chunk }

/-- `rx.buf`: `ACC[0 .. len)` (20_memory.md R61, R66). -/
def State.rxBuf (s : State) (a : Accumulator) : Bytes := Memory.readBytes s.acc 0 a.fill.toNat

/-- `append(X)` and the advance of the expected sequence number (R66, R166). -/
def State.appendRx (s : State) (a : Accumulator) (chunk : Bytes) : State :=
  { s with
    rx := some { a with fill := BitVec.ofNat 16 (a.fill.toNat + chunk.length), expectedSeq := a.expectedSeq + 1 }
    acc := Memory.writeBytes s.acc a.fill.toNat chunk }

/-- `rx <- None`: the accumulator is discarded and ACC holds no specified byte any more (R24, U5). -/
def State.discardRx (s : State) : State := { s with rx := none, acc := [] }

/-! The session. -/

/-- The level of the frame FIFO (R31). -/
abbrev State.level (s : State) : Nat := s.txFifo.length

/-- The number of frames of the session already handed to the transport (43_outbound_sequencer.md R196). -/
def State.handed (s : State) : Nat := s.txSubmitted.toNat - s.level

/-- The writes of an accepted `TX_START` (R191). -/
def State.loadSession (s : State) (frames : List Bytes) (totalBytes : BitVec 16) (now : BitVec 32) : State :=
  { s with
    txStartTs := now
    txFifo := frames
    txSubmitted := BitVec.ofNat 8 frames.length
    txAcked := 0
    txTotalBytes := totalBytes
    txStatus := .pending }

/-- `pop(tx_fifo)` of a FIFO whose other entries are `rest`; the transport now owes a confirmation for the frame's index
(R66, 10_state.md R46). -/
def State.popFrame (s : State) (rest : List Bytes) : State :=
  { s with txFifo := rest, inflight := s.inflight ++ [BitVec.ofNat 8 s.handed] }

/-- The transport has delivered a confirmation for this index (R46; log entry 7). -/
def State.delivered (s : State) (index : BitVec 8) : State := { s with inflight := s.inflight.erase index }

/-- `tx_acked <- tx_acked + 1` (R198). -/
def State.countAck (s : State) : State := { s with txAcked := s.txAcked + 1 }

/-- `tx_status <- Failed; flush(tx_fifo)` (R198, 46_link_config_ops.md R250). -/
def State.failSession (s : State) : State := { s with txStatus := .failed, txFifo := [] }

/-- `tx_status <- Completed` and the meter's result latched (R198, 10_state.md R37). -/
def State.completeSession (s : State) (m : MeterResult) : State :=
  { s with
    txStatus := .completed
    mValid := true
    mTotalBytes := some s.txTotalBytes
    mElapsedMs := some m.elapsedMs
    mIndeterminate := some m.indeterminate
    mRate := m.rate }

/-! Configuration, reset, the port, free values. -/

/-- `CHANNEL_ID <- channel` (R253). -/
def State.setChannel (s : State) (c : ChannelId) : State := { s with channelId := c }

/-- `RESET`: every piece of the block's state takes its value of R50; what has been presented, handed over, output and
drawn outside the block stays (log entry 17). -/
def State.resetBlock (s : State) : State :=
  { State.reset with
    inflight := s.inflight
    port := s.port
    result := s.result
    outputs := s.outputs
    draws := s.draws }

/-- The port after a transaction was taken from it. -/
def State.setPort (s : State) (p : List Presented) : State := { s with port := p }

/-- One more free value drawn (log entry 8). -/
def State.drawn (s : State) : State := { s with draws := s.draws + 1 }

end Sys2Proof.Machine
end

