-- ==== Sys2Proof/Machine/Operands.lean ====
section
/-! DEFINITION. The pure computations on operands the operations share: taking inbound frames apart (41_frame_decoder.md),
cutting a message into frames (40_frame_encoder.md), and the bandwidth meter (44_bandwidth_meter.md). -/

namespace Sys2Proof.Machine

/-! Taking frames apart. -/

/-- Whether a frame's channel differs from that of the accumulator in progress; no check without one (R150). -/
def channelDiffers (channel : ChannelId) (accChannel : Option ChannelId) : Bool :=
  match accChannel with
  | none => false
  | some ch => channel != ch

/-- `DECODE_INITIAL(F, acc_channel)` (R151, R153). -/
def parseInitial (frame : Bytes) (accChannel : Option ChannelId) : Except BlockError InitialParts :=
  match frame with
  | a :: b :: c :: d :: command :: h :: l :: chunk =>
    if channelDiffers ⟨a, b, c, d⟩ accChannel then .error .channelMismatch
    else .ok { channel := ⟨a, b, c, d⟩, command := command, declaredLen := ube16 h l, chunk := chunk }
  | _ => .error .frameTooShort

/-- `DECODE_CONT(F, acc_channel)` (R152, R153). -/
def parseContinuation (frame : Bytes) (accChannel : Option ChannelId) : Except BlockError ContinuationParts :=
  match frame with
  | a :: b :: c :: d :: seq :: chunk =>
    if channelDiffers ⟨a, b, c, d⟩ accChannel then .error .channelMismatch
    else .ok { channel := ⟨a, b, c, d⟩, seq := seq, chunk := chunk }
  | _ => .error .frameTooShort

/-! Cutting a message into frames. -/

/-- `ceil_div(a, b)` (00_scope.md R11). -/
def ceilDiv (a b : Nat) : Nat := (a + b - 1) / b

/-- `B[i .. j)` (R9). -/
def slice (bs : Bytes) (i j : Nat) : Bytes := (bs.drop i).take (j - i)

/-- Payload bytes an initial frame carries (R132). -/
def cap0 (mtu : BitVec 16) : Nat := mtu.toNat - Config.hdrInit

/-- Payload bytes a continuation frame carries (R132). -/
def capc (mtu : BitVec 16) : Nat := mtu.toNat - Config.hdrCont

/-- Continuation frames needed for a payload of `len` bytes (R135). -/
def continuationsNeeded (mtu : BitVec 16) (len : Nat) : Nat :=
  if len ≤ cap0 mtu then 0 else ceilDiv (len - cap0 mtu) (capc mtu)

/-- Continuation frame number `k` of a message (R130). -/
def continuationAt (channel : ChannelId) (payload : Bytes) (mtu : BitVec 16) (k : Nat) : Bytes :=
  let lo := cap0 mtu + k * capc mtu
  let hi := min payload.length (lo + capc mtu)
  continuationFrame channel (BitVec.ofNat 8 k) (slice payload lo hi)

/-- `ENCODE(command, P, mtu)` under the channel `C` (R130); the order of the checks is R140's. DESIGN CHOICE, unsafe for claims
about a last continuation frame of one payload byte (log entry 26): 20_memory.md R62 says that frames made are at least 7 bytes
long, R130, R132 and R135 make such a frame 6 bytes long; the model follows R130. -/
def cutMessage (channel : ChannelId) (command : Byte) (payload : Bytes) (mtu : BitVec 16) :
    Except BlockError (List Bytes) :=
  if mtu.toNat < Config.mtuMin then .error .mtuTooSmall
  else if Config.lenMax < payload.length then .error .payloadTooLarge
  else if Config.contMax < continuationsNeeded mtu payload.length then .error .payloadTooLarge
  else
    .ok (initialFrame channel command (BitVec.ofNat 16 payload.length) (slice payload 0 (min payload.length (cap0 mtu)))
      :: (List.range (continuationsNeeded mtu payload.length)).map (continuationAt channel payload mtu))

/-! The meter. -/

/-- `METER(total_bytes, start, now)`: elapsed time modulo 2^32, and bytes per second rounded down, or no rate at all when
no millisecond has passed (R220, R221, R222, R223). -/
def meterOf (totalBytes : BitVec 16) (start now : BitVec 32) : MeterResult :=
  if now - start = 0 then { elapsedMs := 0, indeterminate := true, rate := none }
  else { elapsedMs := now - start, indeterminate := false,
         rate := some (BitVec.ofNat 32 (totalBytes.toNat * 1000 / (now - start).toNat)) }

end Sys2Proof.Machine
end

