-- ==== Sys2Proof/Machine/Flags.lean ====
section
/-! DEFINITION. The status flags (10_state.md R38), the numeric codes of status, errors and outputs (R30,
60_exceptions.md R266, 30_encoding.md R102), and the condition a confirmation is counted under
(43_outbound_sequencer.md R199). -/

namespace Sys2Proof.Machine

/-- `rx_active`: 1 exactly when `rx` is `Some` (R24). -/
def State.rxActive (s : State) : Bool := s.rx.isSome

/-- The 2-bit encoding of `tx_status` (R30). -/
def TxStatus.code : TxStatus → BitVec 2
  | .idle => 0
  | .pending => 1
  | .completed => 2
  | .failed => 3

/-- The numeric code of an error kind (R266). -/
def BlockError.code : BlockError → BitVec 4
  | .mtuTooSmall => 1
  | .payloadTooLarge => 2
  | .frameTooShort => 3
  | .channelMismatch => 4
  | .outOfOrderFrame => 5
  | .overlongMessage => 6
  | .incompleteMessage => 7
  | .writeFailed _ => 8
  | .sessionBusy => 9

/-- The information an error records: the frame index of `WriteFailed`, nothing otherwise (R102, R266). -/
def BlockError.info : BlockError → Option (BitVec 8)
  | .writeFailed index => some index
  | .mtuTooSmall | .payloadTooLarge | .frameTooShort | .channelMismatch | .outOfOrderFrame | .overlongMessage
  | .incompleteMessage | .sessionBusy => none

/-- The code of an output kind (R102). -/
def Output.code : Output → Nat
  | .submit _ => 1
  | .messageReceived _ _ _ => 2
  | .transferCompleted _ _ _ _ => 3
  | .error _ => 4

/-- Whether `TX_CONFIRM` counts: `Pending` with fewer confirmations counted than frames handed over, or `Failed` with
fewer than submitted (R199; log entry 20). -/
def State.counted (s : State) : Bool :=
  match s.txStatus with
  | .pending => decide (s.txAcked.toNat < s.handed)
  | .failed => decide (s.txAcked.toNat < s.txSubmitted.toNat)
  | .idle => false
  | .completed => false

end Sys2Proof.Machine
end

