-- ==== Sys2Proof/Machine/Codec.lean ====
section
/-! DEFINITION. The meanings of ENCODE (40_frame_encoder.md), DECODE_INITIAL and DECODE_CONT (41_frame_decoder.md).
All three are pure: they write no state of the block and hand their result to the caller (R139, R150). -/

namespace Sys2Proof.Machine

/-- `ENCODE command payload mtu` (R130). -/
def execEncode (command : Byte) (payload : Bytes) (mtu : BitVec 16) (s : State) : Answer :=
  match cutMessage s.channelId command payload mtu with
  | .ok fs => finish (.frames fs) s
  | .error e => raise e s

/-- `DECODE_INITIAL frame acc_channel` (R151). -/
def execDecodeInitial (frame : Bytes) (accChannel : Option ChannelId) (s : State) : Answer :=
  match parseInitial frame accChannel with
  | .ok p => finish (.initialParts p) s
  | .error e => raise e s

/-- `DECODE_CONT frame acc_channel` (R152). -/
def execDecodeCont (frame : Bytes) (accChannel : Option ChannelId) (s : State) : Answer :=
  match parseContinuation frame accChannel with
  | .ok p => finish (.continuationParts p) s
  | .error e => raise e s

end Sys2Proof.Machine
end

