-- ==== Sys2Proof/Machine/Reassembler.lean ====
section
/-! DEFINITION. The inbound reassembler (42_inbound_reassembler.md): RX_NOTIFY, RX_TIMEOUT (46_link_config_ops.md R251),
and the arrival of a frame of each of the three wire shapes (30_encoding.md R91, R92, R93). -/

namespace Sys2Proof.Machine

/-- The initial-frame case: no accumulator is in progress (R166, R167, R169, R170). -/
def receiveInitial (buffer : Bytes) (s : State) : Answer :=
  match parseInitial buffer none with
  | .error e => raise e s
  | .ok f =>
    if f.declaredLen.toNat ≤ f.chunk.length then
      finish .done (s.emit (.messageReceived f.channel f.command (f.chunk.take f.declaredLen.toNat)))
    else finish .done (s.startRx f)

/-- The continuation-frame case: the accumulator `a` is in progress (R166, R168, R169, R171 to R176). -/
def receiveContinuation (a : Accumulator) (buffer : Bytes) (s : State) : Answer :=
  match parseContinuation buffer (some a.channel) with
  | .error e => raise e s.discardRx
  | .ok f =>
    if a.expectedSeq = 128#8 ∨ f.seq ≠ a.expectedSeq then raise .outOfOrderFrame s.discardRx
    else if a.declaredLen.toNat < a.fill.toNat + f.chunk.length then raise .overlongMessage s.discardRx
    else if a.fill.toNat + f.chunk.length = a.declaredLen.toNat then
      finish .done ((s.emit (.messageReceived a.channel a.command (s.rxBuf a ++ f.chunk))).discardRx)
    else finish .done (s.appendRx a f.chunk)

/-- One inbound buffer; its kind is told by `rx` alone (R97, R166). -/
def receive (buffer : Bytes) (s : State) : Answer :=
  match s.rx with
  | none => receiveInitial buffer s
  | some a => receiveContinuation a buffer s

/-- Discard a partial accumulator and report it, if there is one (R250, R251, R252). -/
def abandonRx (s : State) : Answer :=
  if s.rxActive then raise .incompleteMessage s.discardRx else finish .done s

/-- `RX_NOTIFY buffer` (R166). -/
def execRxNotify (buffer : Bytes) (s : State) : Answer := receive buffer s

/-- `RX_TIMEOUT` (R251). -/
def execRxTimeout (s : State) : Answer := abandonRx s

/-- A frame of the initial shape (R91) is delivered: one notification of exactly its bytes (R73; log entry 11). -/
def execFrameInitial (channel : ChannelId) (command : Byte) (declaredLen : BitVec 16) (chunk : Bytes) (s : State) :
    Answer :=
  receive (initialFrame channel command declaredLen chunk) s

/-- A frame of the continuation shape (R92) is delivered (log entry 11). -/
def execFrameContinuation (channel : ChannelId) (seq : Byte) (chunk : Bytes) (s : State) : Answer :=
  receive (continuationFrame channel seq chunk) s

/-- An info report (R93) is delivered (log entry 11). -/
def execInfoReport (channel : ChannelId) (s : State) : Answer := receive (infoReportFrame channel) s

end Sys2Proof.Machine
end

