-- ==== Sys2Proof/Machine/Link.lean ====
section
/-! DEFINITION. LINK_DISCONNECT, CFG_SET_CHANNEL, RESET (46_link_config_ops.md) and the reserved operation codes
(30_encoding.md R105). -/

namespace Sys2Proof.Machine

/-- A `Pending` session is aborted by a disconnect, any other is not changed (R250). -/
def State.abortSession (s : State) : State := if s.txStatus = .pending then s.failSession else s

/-- `LINK_DISCONNECT` (R250): the send side first, then the receive side, in one operation. -/
def execLinkDisconnect (s : State) : Answer := abandonRx s.abortSession

/-- `CFG_SET_CHANNEL channel` (R253). -/
def execCfgSetChannel (channel : ChannelId) (s : State) : Answer := finish .done (s.setChannel channel)

/-- `RESET` (R254): no output, the state of R50. -/
def execReset (s : State) : Answer := finish .done s.resetBlock

/-- The reserved code `0x0`: "a model must refuse them (give them no meaning)" (R105 (a)). -/
def execReserved0 (_s : State) : Answer := .refused (.reservedCode 0x0)

/-- The reserved code `0xD` (R105 (a)). -/
def execReservedD (_s : State) : Answer := .refused (.reservedCode 0xD)

/-- The reserved code `0xE` (R105 (a)). -/
def execReservedE (_s : State) : Answer := .refused (.reservedCode 0xE)

end Sys2Proof.Machine
end

