-- ==== Sys2Proof/Machine/Sequencer.lean ====
section
/-! DEFINITION. The outbound sequencer with acknowledgment tracking (43_outbound_sequencer.md): TX_START, TX_SUBMIT,
TX_CONFIRM, SEND; and METER (44_bandwidth_meter.md). -/

namespace Sys2Proof.Machine

/-- Begin a session, or `SessionBusy` while one is `Pending` (R191, R192). -/
def beginSession (frames : List Bytes) (totalBytes : BitVec 16) (now : BitVec 32) (s : State) : Answer :=
  if s.txStatus = .pending then raise .sessionBusy s
  else finish .done (s.loadSession frames totalBytes now)

/-- `TX_START frames total_bytes @now` (R191); outside its domain it has no meaning (R194, U2). -/
def execTxStart (frames : List Bytes) (totalBytes : BitVec 16) (now : BitVec 32) (s : State) : Answer :=
  if framesInDomain frames then beginSession frames totalBytes now s
  else .refused .txStartOutsideDomain

/-- `TX_SUBMIT` (R195): hand the head of the FIFO to the transport; on an empty FIFO "the step does not exist". -/
def execTxSubmit (s : State) : Answer :=
  match s.txFifo with
  | [] => .refused .submitNotEnabled
  | f :: rest => finish .done ((s.popFrame rest).emit (.submit f))

/-- The last confirmation is counted: `Completed`, the meter's result latched and reported, in one step (R201). -/
def complete (now : BitVec 32) (s : State) : Answer :=
  let m := meterOf s.txTotalBytes s.txStartTs now
  finish .done ((s.completeSession m).emit
    (.transferCompleted s.txTotalBytes m.elapsedMs m.indeterminate m.rate))

/-- A counted confirmation, `tx_acked` already advanced (R198, R200, R201). -/
def afterCount (index : BitVec 8) (err : Bool) (now : BitVec 32) (s : State) : Answer :=
  if s.txStatus = .pending then
    if err then raise (.writeFailed index) s.failSession
    else if s.txAcked = s.txSubmitted then complete now s
    else finish .done s
  else if err then raise (.writeFailed index) s
  else finish .done s

/-- `TX_CONFIRM index err @now` (R198): counted under R199, ignored otherwise. -/
def execTxConfirm (index : BitVec 8) (err : Bool) (now : BitVec 32) (s : State) : Answer :=
  if s.counted then afterCount index err now (s.delivered index).countAck
  else finish .done (s.delivered index)

/-- `METER total_bytes start now` (R220), pure. -/
def execMeter (totalBytes : BitVec 16) (start now : BitVec 32) (s : State) : Answer :=
  finish (.metered (meterOf totalBytes start now)) s

/-- `SEND command payload`, `currentMtu() = mtu`, `@now` (R203): ENCODE, then TX_START, in one operation; encoding errors
come before `SessionBusy`. -/
def execSend (command : Byte) (payload : Bytes) (mtu : BitVec 16) (now : BitVec 32) (s : State) : Answer :=
  match cutMessage s.channelId command payload mtu with
  | .error e => raise e s
  | .ok fs => beginSession fs (BitVec.ofNat 16 payload.length) now s

end Sys2Proof.Machine
end

