-- ==== Sys2Proof/Machine/Dispatch.lean ====
section
/-! DEFINITION. The dispatch: one arm per row of spec/opcode_table.json, each a direct call of its meaning. -/

namespace Sys2Proof.Machine

/-- One operation on one state. -/
def exec (i : Instr) (s : State) : Host.Outcome State Fault Refusal :=
  match i with
  | .encode command payload mtu => Sys2Proof.Machine.execEncode command payload mtu s
  | .decodeInitial frame accChannel => Sys2Proof.Machine.execDecodeInitial frame accChannel s
  | .decodeCont frame accChannel => Sys2Proof.Machine.execDecodeCont frame accChannel s
  | .rxNotify buffer => Sys2Proof.Machine.execRxNotify buffer s
  | .rxTimeout => Sys2Proof.Machine.execRxTimeout s
  | .linkDisconnect => Sys2Proof.Machine.execLinkDisconnect s
  | .txStart frames totalBytes now => Sys2Proof.Machine.execTxStart frames totalBytes now s
  | .txSubmit => Sys2Proof.Machine.execTxSubmit s
  | .txConfirm index err now => Sys2Proof.Machine.execTxConfirm index err now s
  | .meter totalBytes start now => Sys2Proof.Machine.execMeter totalBytes start now s
  | .cfgSetChannel channel => Sys2Proof.Machine.execCfgSetChannel channel s
  | .send command payload mtu now => Sys2Proof.Machine.execSend command payload mtu now s
  | .reset => Sys2Proof.Machine.execReset s
  | .reserved0 => Sys2Proof.Machine.execReserved0 s
  | .reservedD => Sys2Proof.Machine.execReservedD s
  | .reservedE => Sys2Proof.Machine.execReservedE s
  | .frameInitial channel command declaredLen chunk => Sys2Proof.Machine.execFrameInitial channel command declaredLen chunk s
  | .frameContinuation channel seq chunk => Sys2Proof.Machine.execFrameContinuation channel seq chunk s
  | .infoReport channel => Sys2Proof.Machine.execInfoReport channel s

end Sys2Proof.Machine
end

