-- ==== Sys2Proof/Machine/Registers.lean ====
section
/-! DEFINITION. The host's read view of eleven 32-bit registers (10_state.md R39). A read has no effect on the block
(20_memory.md R67). A field that holds no value reads as the bits of a free value (U4; log entry 8). -/

namespace Sys2Proof.Machine

/-- A channel id as a register: first wire byte in bits 31..24 (R39). -/
def channelRegister (c : ChannelId) : BitVec 32 := ube32 c.b0 c.b1 c.b2 c.b3

/-- Register 1: tx_status, rx_active, m_valid, m_indeterminate in bits 1..0, 2, 3, 4. -/
def statusRegister (s : State) (free : BitVec 32) : BitVec 32 :=
  BitVec.ofNat 32 (s.txStatus.code.toNat + 4 * s.rxActive.toNat + 8 * s.mValid.toNat
    + 16 * (s.mIndeterminate.getD (free.getLsbD 4)).toNat)

/-- Register 2: tx_submitted, tx_acked, level of tx_fifo in bits 7..0, 15..8, 23..16. -/
def countsRegister (s : State) : BitVec 32 :=
  ube32 0 (BitVec.ofNat 8 s.level) s.txAcked s.txSubmitted

/-- Register 8: rx.declared_len, rx.expected_seq, rx.command in bits 15..0, 23..16, 31..24. -/
def rxInfoRegister (s : State) (free : BitVec 32) : BitVec 32 :=
  match s.rx with
  | some a => BitVec.ofNat 32 (16777216 * a.command.toNat + 65536 * a.expectedSeq.toNat + a.declaredLen.toNat)
  | none => free

/-- The value of register `n`, given the free value this read draws; `none` for a number R39 does not list. -/
def registerValue (n : Nat) (s : State) (free : BitVec 32) : Option (BitVec 32) :=
  match n with
  | 0 => some (channelRegister s.channelId)
  | 1 => some (statusRegister s free)
  | 2 => some (countsRegister s)
  | 3 => some s.txStartTs
  | 4 => some (s.txTotalBytes.setWidth 32)
  | 5 => some ((s.mTotalBytes.getD (free.setWidth 16)).setWidth 32)
  | 6 => some (s.mElapsedMs.getD free)
  | 7 => some (s.mRate.getD free)
  | 8 => some (rxInfoRegister s free)
  | 9 => some (((s.rx.map Accumulator.fill).getD (free.setWidth 16)).setWidth 32)
  | 10 => some ((s.rx.map fun a => channelRegister a.channel).getD free)
  | _ => none

/-- A host read of register `n`: the value is the result; nothing of the block changes (R67). -/
def readRegister (n : Nat) (s : State) : Answer :=
  match registerValue n s (Config.noValue s.draws n) with
  | some v => .next ((s.drawn).setResult (.register v))
  | none => .refused (.noSuchRegister n)

end Sys2Proof.Machine
end

