-- ==== Sys2Proof/Machine/Fetch.lean ====
section
/-! DEFINITION. What the next step does: the head of the transactions presented (20_memory.md R70), or, when nothing is
presented, the sequencer's own internal step (00_scope.md R15 (4), 43_outbound_sequencer.md R195). -/

namespace Sys2Proof.Machine

/-- What was fetched. -/
inductive Fetched where
  /-- Run this operation on this state. -/
  | operation (i : Instr) (s : State)
  /-- A host read of this register on this state. -/
  | registerRead (n : Nat) (s : State)
  /-- Nothing is presented and no internal step is enabled: the block holds its state (60_exceptions.md R289). -/
  | quiescent
  /-- The record presented does not hold the operands of an operation (R101; log entry 2). -/
  | rejected (r : Refusal)

/-- Take the next transaction (log entries 1, 16, 19). -/
def fetch (s : State) : Fetched :=
  match s.port with
  | .transaction port bytes :: rest =>
    match decode port bytes with
    | .ok (i, _) => .operation i (s.setPort rest)
    | .error e => .rejected (.undecodable e)
  | .readRegister n :: rest => .registerRead n (s.setPort rest)
  | [] => if s.txFifo.isEmpty then .quiescent else .operation .txSubmit s

/-- A table word as a presented transaction: at the port its width says. -/
def presentedOfWord (nbits w : Nat) : Presented := .transaction (portOfWidth nbits) (bytesOfWord nbits w)

end Sys2Proof.Machine
end

