-- ==== Sys2Proof/Machine/Step.lean ====
section
/-! DEFINITION. One step of the machine: one operation of the total order of 20_memory.md R70, or one host read. -/

namespace Sys2Proof.Machine

/-- One step. -/
def step (s : State) : Host.Outcome State Fault Refusal :=
  match fetch s with
  | .operation i s' => exec i s'
  | .registerRead n s' => readRegister n s'
  | .quiescent => .next s
  | .rejected r => .refused r

/-- `s` with a table word presented as its next transaction. -/
def State.withFetchWord (s : State) (nbits w : Nat) : State := s.setPort (presentedOfWord nbits w :: s.port)

end Sys2Proof.Machine
end

