-- ==== Sys2Proof/Machine/CommandBuilder.lean ====
section
/-! DEFINITION. The CommandBuilder's pseudo-operations (45_command_builder_pseudo_ops.md), outside the block
(00_scope.md R5 (c)): stateless constructors whose results the host hands to the block. None has an operation code. -/

namespace Sys2Proof.Machine

/-- `BUILD_SEND text`: command 80 and the UTF-8 bytes of the text, made outside (R236). -/
def buildSend (utf8 : Bytes) : Byte × Bytes := (0x80#8, utf8)

/-- `BUILD_INFO`: one finished 64-byte buffer with the block's channel id (R237). -/
def buildInfo (s : State) : Bytes := infoReportFrame s.channelId

/-- `BUILD_SPEEDTEST size`, 4096 by default: `size` bytes of the open pattern under the open command (R238; log entry 21). -/
def buildSpeedtest (size : Nat := 4096) : Byte × Bytes :=
  (Config.speedtestCommand, (List.range size).map Config.speedtestPattern)

end Sys2Proof.Machine
end

