-- ==== Sys2Proof/Safety.lean ====
section
/-! DEFINITION. What claims are stated in: the invariant of the block (10_state.md R28, R29, R31, R36, R37), sequences of
operations, and the transport's contract (20_memory.md R72). -/

namespace Sys2Proof.Machine

/-! The invariant. -/

/-- The reassembler's state (R27, R28, R29): without an accumulator ACC lists nothing; with one it lists exactly the bytes
below the fill level, the message is incomplete, and the expected sequence number is at most 128. -/
abbrev RxInv (s : State) : Prop :=
  match s.rx with
  | none => s.acc = []
  | some a =>
    s.acc.map Prod.fst = List.range a.fill.toNat ∧ a.fill.toNat < a.declaredLen.toNat ∧ a.expectedSeq.toNat ≤ 128

/-- The sequencer's state (R31, R36 (i) to (vi)). -/
abbrev TxInv (s : State) : Prop :=
  (s.txAcked.toNat ≤ s.txSubmitted.toNat ∧ s.txSubmitted.toNat ≤ 129) ∧
  (s.level ≤ s.txSubmitted.toNat ∧ (0 < s.level → s.txStatus = .pending)) ∧
  (s.txStatus = .completed → s.txAcked = s.txSubmitted ∧ 1 ≤ s.txSubmitted.toNat) ∧
  (s.txStatus = .idle → s.txSubmitted = 0 ∧ s.txAcked = 0 ∧ s.txFifo = []) ∧
  (s.txStatus = .pending → s.txAcked.toNat < s.txSubmitted.toNat ∧ s.txAcked.toNat ≤ s.handed) ∧
  ∀ f ∈ s.txFifo, 1 ≤ f.length ∧ f.length ≤ 65535

/-- The meter's result registers hold values exactly when R20 and R37 say so. -/
abbrev MeterInv (s : State) : Prop :=
  (s.mValid = false → s.mTotalBytes = none ∧ s.mElapsedMs = none ∧ s.mIndeterminate = none ∧ s.mRate = none) ∧
  (s.mValid = true → s.mTotalBytes.isSome ∧ s.mElapsedMs.isSome ∧ s.mIndeterminate.isSome ∧
    (s.mRate.isSome ↔ s.mIndeterminate = some false) ∧ (s.mIndeterminate = some true ↔ s.mElapsedMs = some 0))

/-- The invariant of the block. -/
abbrev Inv (s : State) : Prop := RxInv s ∧ TxInv s ∧ MeterInv s ∧ Memory.wf s.acc

/-! Sequences of operations. -/

/-- The operations of a list one after the other, each one atomic (R70); a refusal stops. -/
def runOps : List Instr → State → Answer
  | [], s => .next s
  | i :: is, s =>
    match exec i s with
    | .next t => runOps is t
    | .fault f => .fault f
    | .refused r => .refused r

/-- `DECODE_MESSAGE frames` (42_inbound_reassembler.md R178): one `RX_NOTIFY` per frame, in order. -/
def decodeMessage (frames : List Bytes) (s : State) : Answer := runOps (frames.map .rxNotify) s

/-! Kinds of operations. -/

/-- The 4-bit operation code of an operation (30_encoding.md R100, R105); a frame has none. -/
def operationCode : Instr → Option (BitVec 4)
  | .encode _ _ _ => some 0x1
  | .decodeInitial _ _ => some 0x2
  | .decodeCont _ _ => some 0x3
  | .rxNotify _ => some 0x4
  | .rxTimeout => some 0x5
  | .linkDisconnect => some 0x6
  | .txStart _ _ _ => some 0x7
  | .txSubmit => some 0x8
  | .txConfirm _ _ _ => some 0x9
  | .meter _ _ _ => some 0xA
  | .cfgSetChannel _ => some 0xB
  | .send _ _ _ _ => some 0xC
  | .reset => some 0xF
  | .reserved0 => some 0x0
  | .reservedD => some 0xD
  | .reservedE => some 0xE
  | .frameInitial _ _ _ _ => none
  | .frameContinuation _ _ _ => none
  | .infoReport _ => none

/-- The operations that may change `rx` (42_inbound_reassembler.md R180), the arrival of a frame being an `RX_NOTIFY`. -/
def mayChangeRx : Instr → Bool
  | .rxNotify _ => true
  | .rxTimeout => true
  | .linkDisconnect => true
  | .reset => true
  | .frameInitial _ _ _ _ => true
  | .frameContinuation _ _ _ => true
  | .infoReport _ => true
  | .encode _ _ _ => false
  | .decodeInitial _ _ => false
  | .decodeCont _ _ => false
  | .txStart _ _ _ => false
  | .txSubmit => false
  | .txConfirm _ _ _ => false
  | .meter _ _ _ => false
  | .cfgSetChannel _ => false
  | .send _ _ _ _ => false
  | .reserved0 => false
  | .reservedD => false
  | .reservedE => false

/-- The operations that may change the session, its FIFO, its counters or the meter's registers
(43_outbound_sequencer.md R205, 10_state.md R37). -/
def mayChangeSession : Instr → Bool
  | .txStart _ _ _ => true
  | .txSubmit => true
  | .txConfirm _ _ _ => true
  | .send _ _ _ _ => true
  | .linkDisconnect => true
  | .reset => true
  | .encode _ _ _ => false
  | .decodeInitial _ _ => false
  | .decodeCont _ _ => false
  | .rxNotify _ => false
  | .rxTimeout => false
  | .meter _ _ _ => false
  | .cfgSetChannel _ => false
  | .reserved0 => false
  | .reservedD => false
  | .reservedE => false
  | .frameInitial _ _ _ _ => false
  | .frameContinuation _ _ _ => false
  | .infoReport _ => false

/-- The operations that have no meaning in a state: the reserved codes (R105), `TX_START` outside its domain (R194), and
`TX_SUBMIT` on an empty FIFO, where the step does not exist (R195). -/
def HasNoMeaning (i : Instr) (s : State) : Prop :=
  match i with
  | .reserved0 => True
  | .reservedD => True
  | .reservedE => True
  | .txStart frames _ _ => ¬framesInDomain frames
  | .txSubmit => s.txFifo = []
  | .encode _ _ _ => False
  | .decodeInitial _ _ => False
  | .decodeCont _ _ => False
  | .rxNotify _ => False
  | .rxTimeout => False
  | .linkDisconnect => False
  | .txConfirm _ _ _ => False
  | .meter _ _ _ => False
  | .cfgSetChannel _ => False
  | .send _ _ _ _ => False
  | .reset => False
  | .frameInitial _ _ _ _ => False
  | .frameContinuation _ _ _ => False
  | .infoReport _ => False

/-! The transport's contract. -/

/-- An interleaving of `TX_SUBMIT` steps with successful confirmations in which, with `toSubmit` frames still to hand over,
`owed` handed over and not yet confirmed, every confirmation follows a submission it can be for, and at the end every frame
has been handed over and confirmed. The `index` and `now` operands are free (43_outbound_sequencer.md R202). -/
inductive Delivery : Nat → Nat → List Instr → Prop where
  | nil : Delivery 0 0 []
  | submit {toSubmit owed : Nat} {is : List Instr} :
    Delivery toSubmit (owed + 1) is → Delivery (toSubmit + 1) owed (.txSubmit :: is)
  | confirm {toSubmit owed : Nat} {is : List Instr} (index : BitVec 8) (now : BitVec 32) :
    Delivery toSubmit owed is → Delivery toSubmit (owed + 1) (.txConfirm index false now :: is)

/-- The clock samples of the confirmations of a sequence, in order. -/
def clockSamples : List Instr → List (BitVec 32)
  | [] => []
  | .txConfirm _ _ now :: is => now :: clockSamples is
  | _ :: is => clockSamples is

end Sys2Proof.Machine
end

