-- ==== Sys2Proof/Certificates/Slice0/Obligations.lean ====
section
/-! DEFINITION. The statements, from the numbered rules of spec/. A statement whose conclusion is `exec i s = .next { s with … }`
gives the result, the frame and the completion of its operation at once: every field not named is unchanged. -/

open Sys2Proof Sys2Proof.Machine

/-! Encodings. -/

/-- What the encoder writes the decoder reads, with every operand at every value, and what follows a record is left over. The
record layout is the model's (log entries 2, 3, 4), the codes are R100's, the wire layouts R91 to R93. -/
def Obligations.DecodeOfEncodeGivesBackTheInstruction : Prop :=
  ∀ (i : Instr) (rest : Bytes), i.WellFormed → (i.port = .command ∨ rest = []) →
    decode i.port (encode i ++ rest) = .ok (i, rest)

/-- A few bytes written out from R100, R91, R92, R93 and the record layout decode to what they stand for. -/
def Obligations.SpecBytesDecode : Prop :=
  decode .command [0x0A, 0x10, 0x00, 0, 0, 0, 7, 0, 0, 0x03, 0xEF] = .ok (.meter 4096 7 1007, []) ∧
  decode .command [0x05] = .ok (.rxTimeout, []) ∧
  decode .command [0x09, 2, 1, 0, 0, 0x13, 0x9C] = .ok (.txConfirm 2 true 5020, []) ∧
  decode .command [0x0B, 1, 2, 3, 4] = .ok (.cfgSetChannel ⟨1, 2, 3, 4⟩, []) ∧
  decode .command [0x0E] = .ok (.reservedE, []) ∧
  decode (.wire .initial) [0xEE, 0xEE, 0xEE, 0xEE, 0x80, 0x12, 0x34, 0xAA]
    = .ok (.frameInitial ⟨0xEE, 0xEE, 0xEE, 0xEE⟩ 0x80 4660 [0xAA], []) ∧
  decode (.wire .continuation) [1, 2, 3, 4, 0x7F, 0x4E] = .ok (.frameContinuation ⟨1, 2, 3, 4⟩ 0x7F [0x4E], [])

/-- The operation a record decodes to is the one whose 4-bit code stands in bits 3..0 of its first byte (R100, R105). -/
def Obligations.DecodedOperationHasTheCodeOfItsRecord : Prop :=
  ∀ (op : Byte) (bs rest : Bytes) (i : Instr), decode .command (op :: bs) = .ok (i, rest) →
    operationCode i = some (op.extractLsb' 0 4)

/-- The wire layouts of R91 and R92, byte by byte: channel, command and the two bytes of the declared length, high byte first;
channel and sequence number; then the chunk. -/
def Obligations.WireFrameLayouts : Prop :=
  (∀ (ch : ChannelId) (command : Byte) (len : BitVec 16) (chunk : Bytes),
    encode (.frameInitial ch command len chunk)
      = [ch.b0, ch.b1, ch.b2, ch.b3, command, len.extractLsb' 8 8, len.extractLsb' 0 8] ++ chunk) ∧
  (∀ (ch : ChannelId) (seq : Byte) (chunk : Bytes),
    encode (.frameContinuation ch seq chunk) = [ch.b0, ch.b1, ch.b2, ch.b3, seq] ++ chunk)

/-! The step. -/

/-- A presented transaction that decodes is taken from the port and run (the model's port, log entry 1). -/
def Obligations.StepRunsTheDecodedOperation : Prop :=
  ∀ (s : State) (port : Port) (bytes : Bytes) (later : List Presented) (i : Instr) (rest : Bytes),
    s.port = .transaction port bytes :: later → decode port bytes = .ok (i, rest) →
      step s = exec i { s with port := later }

/-- With nothing presented the sequencer's internal step hands over the head of the FIFO, and on an empty FIFO the block
holds its state (R195, R302; log entry 16). -/
def Obligations.StepWithNothingPresented : Prop :=
  (∀ (s : State) (f : Bytes) (fs : List Bytes), s.port = [] → s.txFifo = f :: fs →
    step s = .next { s with
      txFifo := fs
      inflight := s.inflight ++ [BitVec.ofNat 8 (s.txSubmitted.toNat - (fs.length + 1))]
      outputs := s.outputs ++ [.submit f]
      result := .done }) ∧
  (∀ (s : State), s.port = [] → s.txFifo = [] → step s = .next s)

/-- A presented host read of a register that exists changes nothing but the port, the result and the model's counter of
free values; a number R39 does not list is refused (R39, R67; log entry 18). -/
def Obligations.RegisterReadChangesNothing : Prop :=
  ∀ (s : State) (n : Nat) (later : List Presented), s.port = .readRegister n :: later →
    (n ≤ 10 → ∃ v : BitVec 32,
      step s = .next { s with port := later, draws := s.draws + 1, result := .register v }) ∧
    (10 < n → step s = .refused (.noSuchRegister n))

/-- Every field of the register view that holds a value reads at its bits, and unlisted bits read 0 (R39). Nothing is said of
a field that holds no value. -/
def Obligations.RegisterViewShowsEveryField : Prop :=
  ∀ (s : State), ∃ v : Nat → BitVec 32,
    (∀ n, n ≤ 10 → readRegister n s = .next { s with draws := s.draws + 1, result := .register (v n) }) ∧
    ((v 0).extractLsb' 24 8 = s.channelId.b0 ∧ (v 0).extractLsb' 16 8 = s.channelId.b1 ∧
      (v 0).extractLsb' 8 8 = s.channelId.b2 ∧ (v 0).extractLsb' 0 8 = s.channelId.b3) ∧
    (((v 1).extractLsb' 0 2 = match s.txStatus with
        | .idle => 0#2
        | .pending => 1#2
        | .completed => 2#2
        | .failed => 3#2) ∧
      (v 1).getLsbD 2 = s.rx.isSome ∧ (v 1).getLsbD 3 = s.mValid ∧
      (∀ b, s.mIndeterminate = some b → (v 1).getLsbD 4 = b) ∧ (v 1).extractLsb' 5 27 = 0) ∧
    ((v 2).extractLsb' 0 8 = s.txSubmitted ∧ (v 2).extractLsb' 8 8 = s.txAcked ∧
      (v 2).extractLsb' 16 8 = BitVec.ofNat 8 s.txFifo.length ∧ (v 2).extractLsb' 24 8 = 0) ∧
    v 3 = s.txStartTs ∧
    ((v 4).extractLsb' 0 16 = s.txTotalBytes ∧ (v 4).extractLsb' 16 16 = 0) ∧
    (∀ b, s.mTotalBytes = some b → (v 5).extractLsb' 0 16 = b) ∧ (v 5).extractLsb' 16 16 = 0 ∧
    (∀ e, s.mElapsedMs = some e → v 6 = e) ∧
    (∀ r, s.mRate = some r → v 7 = r) ∧
    (∀ a, s.rx = some a →
      (v 8).extractLsb' 0 16 = a.declaredLen ∧ (v 8).extractLsb' 16 8 = a.expectedSeq ∧
      (v 8).extractLsb' 24 8 = a.command ∧ (v 9).extractLsb' 0 16 = a.fill ∧
      (v 10).extractLsb' 24 8 = a.channel.b0 ∧ (v 10).extractLsb' 16 8 = a.channel.b1 ∧
      (v 10).extractLsb' 8 8 = a.channel.b2 ∧ (v 10).extractLsb' 0 8 = a.channel.b3) ∧
    (v 9).extractLsb' 16 16 = 0

/-! Reset. -/

/-- The table of R50, field by field, the block's fields only. -/
def Obligations.ResetLeavesTheTable : Prop :=
  State.reset.channelId = ⟨0xEE, 0xEE, 0xEE, 0xEE⟩ ∧ State.reset.rx = none ∧ State.reset.txStatus = .idle ∧
  State.reset.txFifo = [] ∧ State.reset.txSubmitted = 0 ∧ State.reset.txAcked = 0 ∧ State.reset.txStartTs = 0 ∧
  State.reset.txTotalBytes = 0 ∧ State.reset.mValid = false ∧ State.reset.mTotalBytes = none ∧
  State.reset.mElapsedMs = none ∧ State.reset.mIndeterminate = none ∧ State.reset.mRate = none

/-- `RESET` puts every piece of the block's state at its value of R50, from any state, and outputs nothing (R254). -/
def Obligations.ResetOperation : Prop :=
  ∀ (s : State), ∃ t : State, exec .reset s = .next t ∧
    t.channelId = ⟨0xEE, 0xEE, 0xEE, 0xEE⟩ ∧ t.rx = none ∧ t.txStatus = .idle ∧ t.txFifo = [] ∧
    t.txSubmitted = 0 ∧ t.txAcked = 0 ∧ t.txStartTs = 0 ∧ t.txTotalBytes = 0 ∧ t.mValid = false ∧
    t.mTotalBytes = none ∧ t.mElapsedMs = none ∧ t.mIndeterminate = none ∧ t.mRate = none ∧
    t.outputs = s.outputs

/-! The encoder. -/

/-- `ENCODE`, the whole of its rule (R130): `MtuTooSmall` is tested first; then a payload above 65535 bytes; a payload of at most
`mtu - 7` bytes gives one initial frame that carries all of it; a longer one gives an initial frame with the first `mtu - 7`
bytes and `n` continuation frames, number `k` of which carries the bytes from `mtu - 7 + k * (mtu - 5)` on, at most `mtu - 5` of
them; more than 128 of them is `PayloadTooLarge`. No state of the block is written, errors included (R133, R140). -/
def Obligations.EncodeFollowsItsRule : Prop :=
  ∀ (s : State) (command : Byte) (p : Bytes) (mtu : BitVec 16) (n : Nat),
    n = (p.length - (mtu.toNat - 7) + (mtu.toNat - 5) - 1) / (mtu.toNat - 5) →
    (mtu.toNat < 8 → exec (.encode command p mtu) s = .next { s with
      result := .error .mtuTooSmall, outputs := s.outputs ++ [.error .mtuTooSmall] }) ∧
    (8 ≤ mtu.toNat → 65535 < p.length → exec (.encode command p mtu) s = .next { s with
      result := .error .payloadTooLarge, outputs := s.outputs ++ [.error .payloadTooLarge] }) ∧
    (8 ≤ mtu.toNat → p.length ≤ 65535 → p.length ≤ mtu.toNat - 7 → exec (.encode command p mtu) s = .next { s with
      result := .frames [s.channelId.bytes ++ command :: (be16 (BitVec.ofNat 16 p.length) ++ p)] }) ∧
    (8 ≤ mtu.toNat → p.length ≤ 65535 → mtu.toNat - 7 < p.length → n ≤ 128 →
      ∃ fs : List Bytes,
        exec (.encode command p mtu) s = .next { s with result := .frames fs } ∧
        fs.length = n + 1 ∧
        fs[0]? = some (s.channelId.bytes ++ command :: (be16 (BitVec.ofNat 16 p.length) ++ p.take (mtu.toNat - 7))) ∧
        ∀ k, k < n → fs[k + 1]? = some (s.channelId.bytes ++ BitVec.ofNat 8 k ::
          (p.drop (mtu.toNat - 7 + k * (mtu.toNat - 5))).take (mtu.toNat - 5))) ∧
    (8 ≤ mtu.toNat → mtu.toNat - 7 < p.length → 128 < n → exec (.encode command p mtu) s = .next { s with
      result := .error .payloadTooLarge, outputs := s.outputs ++ [.error .payloadTooLarge] })

/-- `ENCODE` succeeds exactly when `mtu >= 8` and the payload is at most `Lmax(mtu)` bytes long (the closed form of R134, which the
spec marks as its own inference from R130). -/
def Obligations.EncodeSucceedsExactlyUpToLmax : Prop :=
  ∀ (s : State) (command : Byte) (p : Bytes) (mtu : BitVec 16),
    (∃ fs, exec (.encode command p mtu) s = .next { s with result := .frames fs }) ↔
      8 ≤ mtu.toNat ∧ p.length ≤ min 65535 (129 * mtu.toNat - 647)

/-- Every encoded frame is at most `mtu` bytes long, and every frame but the last is exactly `mtu` bytes long (R136, which
the spec marks as its own inference from R130, and R132). -/
def Obligations.EncodedFramesFitTheMtu : Prop :=
  ∀ (s t : State) (command : Byte) (p : Bytes) (mtu : BitVec 16) (fs : List Bytes),
    exec (.encode command p mtu) s = .next t → t.result = .frames fs →
      (∀ f ∈ fs, f.length ≤ mtu.toNat) ∧
      ∀ k f, fs[k]? = some f → k + 1 < fs.length → f.length = mtu.toNat

/-- Every frame begins with `CHANNEL_ID`; the initial frame's byte 4 is the command and its bytes 5 and 6 the length of the
whole payload; continuation frame number `k` has byte 4 equal to `k`, never above 127 (R131, R137). -/
def Obligations.EncodedHeaders : Prop :=
  ∀ (s t : State) (command : Byte) (p : Bytes) (mtu : BitVec 16) (fs : List Bytes),
    exec (.encode command p mtu) s = .next t → t.result = .frames fs →
      (∀ f ∈ fs, f.take 4 = [s.channelId.b0, s.channelId.b1, s.channelId.b2, s.channelId.b3]) ∧
      (∀ f, fs[0]? = some f → ∃ h l : Byte,
        f[4]? = some command ∧ f[5]? = some h ∧ f[6]? = some l ∧ 256 * h.toNat + l.toNat = p.length) ∧
      ∀ k f, fs[k + 1]? = some f → ∃ q : Byte, f[4]? = some q ∧ q.toNat = k ∧ k ≤ 127

/-- Between 1 and 129 frames; all frames together are `L + 7 + 5*n` bytes; no continuation frame has an empty chunk (R135,
which the spec marks as its own inference from R130; that the last continuation frame may be 6 bytes long, where R62 says at
least 7, is the model's choice between the two, log entry 26). -/
def Obligations.EncodedFrameCount : Prop :=
  ∀ (s t : State) (command : Byte) (p : Bytes) (mtu : BitVec 16) (fs : List Bytes),
    exec (.encode command p mtu) s = .next t → t.result = .frames fs →
      ∃ n, fs.length = n + 1 ∧ n ≤ 128 ∧
        n = (if p.length ≤ mtu.toNat - 7 then 0
             else (p.length - (mtu.toNat - 7) + (mtu.toNat - 5) - 1) / (mtu.toNat - 5)) ∧
        (fs.map List.length).sum = p.length + 7 + 5 * n ∧
        ∀ k f, fs[k + 1]? = some f → 6 ≤ f.length

/-- The round trip (R138, which the spec marks as its own inference from R130 and R167 to R174): at every mtu of at least 8 and every payload of at most `Lmax(mtu)` bytes, `ENCODE` gives frames, and
`DECODE_MESSAGE` of them from any state with `rx = None` outputs nothing before the last frame and exactly one
`MessageReceived` with it, of the same channel, command and payload. -/
def Obligations.RoundTripOfEncodeAndReassemble : Prop :=
  ∀ (s : State) (command : Byte) (p : Bytes) (mtu : BitVec 16),
    s.rx = none → 8 ≤ mtu.toNat → p.length ≤ min 65535 (129 * mtu.toNat - 647) →
      ∃ (before : List Bytes) (last : Bytes) (t u : State),
        exec (.encode command p mtu) s = .next { s with result := .frames (before ++ [last]) } ∧
        decodeMessage before s = .next t ∧ t.outputs = s.outputs ∧
        decodeMessage (before ++ [last]) s = .next u ∧ u.rx = none ∧
        u.outputs = s.outputs ++ [.messageReceived s.channelId command p]

/-- `ENCODE` writes no state of the block in any state (only its result, and on an error one `Error` event), what it returns
depends on its operands and `CHANNEL_ID` alone, and it never raises `SessionBusy` (R139); the same holds of `DECODE_INITIAL`,
`DECODE_CONT` and `METER`. -/
def Obligations.PureOperationsWriteNoState : Prop :=
  ∀ (i : Instr) (s₁ s₂ : State),
    ((∃ c p m, i = .encode c p m) ∨ (∃ f ch, i = .decodeInitial f ch) ∨ (∃ f ch, i = .decodeCont f ch) ∨
      (∃ b st now, i = .meter b st now)) →
    s₁.channelId = s₂.channelId →
    (∃ r, (∀ e, r ≠ .error e) ∧ exec i s₁ = .next { s₁ with result := r } ∧
      exec i s₂ = .next { s₂ with result := r }) ∨
    (∃ e, e ≠ .sessionBusy ∧
      exec i s₁ = .next { s₁ with result := .error e, outputs := s₁.outputs ++ [.error e] } ∧
      exec i s₂ = .next { s₂ with result := .error e, outputs := s₂.outputs ++ [.error e] })

/-! The decoders. -/

/-- `DECODE_INITIAL` (R151): a buffer of fewer than 7 bytes raises `FrameTooShort` whatever channel is given; a longer one whose
first four bytes differ from the channel given raises `ChannelMismatch`; any other gives its fields. -/
def Obligations.DecodeInitialTakesAFrameApart : Prop :=
  ∀ (s : State) (f : Bytes) (accChannel : Option ChannelId),
    (f.length < 7 → exec (.decodeInitial f accChannel) s = .next { s with
      result := .error .frameTooShort, outputs := s.outputs ++ [.error .frameTooShort] }) ∧
    (∀ ch : ChannelId, 7 ≤ f.length → accChannel = some ch → f.take 4 ≠ ch.bytes →
      exec (.decodeInitial f accChannel) s = .next { s with
        result := .error .channelMismatch, outputs := s.outputs ++ [.error .channelMismatch] }) ∧
    (∀ (ch : ChannelId) (command h l : Byte) (chunk : Bytes),
      f = [ch.b0, ch.b1, ch.b2, ch.b3, command, h, l] ++ chunk → (accChannel = none ∨ accChannel = some ch) →
      exec (.decodeInitial f accChannel) s = .next { s with
        result := .initialParts ⟨ch, command, BitVec.ofNat 16 (256 * h.toNat + l.toNat), chunk⟩ })

/-- `DECODE_CONT` (R152): a buffer of fewer than 5 bytes raises `FrameTooShort` whatever channel is given; a longer one whose
first four bytes differ from the channel given raises `ChannelMismatch`; any other gives its fields, any sequence byte. -/
def Obligations.DecodeContTakesAFrameApart : Prop :=
  ∀ (s : State) (f : Bytes) (accChannel : Option ChannelId),
    (f.length < 5 → exec (.decodeCont f accChannel) s = .next { s with
      result := .error .frameTooShort, outputs := s.outputs ++ [.error .frameTooShort] }) ∧
    (∀ ch : ChannelId, 5 ≤ f.length → accChannel = some ch → f.take 4 ≠ ch.bytes →
      exec (.decodeCont f accChannel) s = .next { s with
        result := .error .channelMismatch, outputs := s.outputs ++ [.error .channelMismatch] }) ∧
    (∀ (ch : ChannelId) (seq : Byte) (chunk : Bytes),
      f = [ch.b0, ch.b1, ch.b2, ch.b3, seq] ++ chunk → (accChannel = none ∨ accChannel = some ch) →
      exec (.decodeCont f accChannel) s = .next { s with result := .continuationParts ⟨ch, seq, chunk⟩ })

/-! The reassembler. -/

/-- The arrival of a frame of any wire shape acts in every state as one notification of exactly its bytes (that it is one is the
model's reading, log entry 11; that its kind is told by `rx` alone is R97). -/
def Obligations.ArrivingFramesAreNotifications : Prop :=
  ∀ (i : Instr) (s : State), i.port ≠ .command →
    ∃ t : State, exec i s = .next t ∧ exec (.rxNotify (encode i)) s = .next t

/-- Any buffer presented on the wire, with any label and of any length, steps as one notification of exactly its bytes (that it is
one is the model's reading, log entry 11, and so is the label, log entry 12). -/
def Obligations.WireBuffersAreNotifications : Prop :=
  ∀ (s : State) (shape : WireShape) (buffer : Bytes) (later : List Presented),
    s.port = .transaction (.wire shape) buffer :: later →
      ∃ t : State, step s = .next t ∧ exec (.rxNotify buffer) { s with port := later } = .next t

/-- An arriving initial frame, with no accumulator, completes a message or starts one, as its notification does (log entry 11). -/
def Obligations.ArrivingInitialFrameStartsOrCompletes : Prop :=
  ∀ (s : State) (ch : ChannelId) (command : Byte) (len : BitVec 16) (chunk : Bytes), s.rx = none →
    (len.toNat ≤ chunk.length → exec (.frameInitial ch command len chunk) s = .next { s with
      result := .done, outputs := s.outputs ++ [.messageReceived ch command (chunk.take len.toNat)] }) ∧
    (chunk.length < len.toNat → ∃ m : Memory,
      exec (.frameInitial ch command len chunk) s = .next { s with
        rx := some { channel := ch, command := command, declaredLen := len,
                     fill := BitVec.ofNat 16 chunk.length, expectedSeq := 0 }
        acc := m
        result := .done } ∧
      Memory.readBytes m 0 chunk.length = chunk)

/-- An arriving continuation frame of the right channel and sequence number extends or completes the message, as its
notification does (log entry 11). -/
def Obligations.ArrivingContinuationFrameExtendsOrCompletes : Prop :=
  ∀ (s : State) (a : Accumulator) (chunk : Bytes), Inv s → s.rx = some a → a.expectedSeq ≠ 128 →
    (a.fill.toNat + chunk.length < a.declaredLen.toNat → ∃ m : Memory,
      exec (.frameContinuation a.channel a.expectedSeq chunk) s = .next { s with
        rx := some { a with fill := BitVec.ofNat 16 (a.fill.toNat + chunk.length), expectedSeq := a.expectedSeq + 1 }
        acc := m
        result := .done } ∧
      Memory.readBytes m 0 (a.fill.toNat + chunk.length) = Memory.readBytes s.acc 0 a.fill.toNat ++ chunk) ∧
    (a.fill.toNat + chunk.length = a.declaredLen.toNat →
      exec (.frameContinuation a.channel a.expectedSeq chunk) s = .next { s with
        rx := none
        acc := []
        result := .done
        outputs := s.outputs ++
          [.messageReceived a.channel a.command (Memory.readBytes s.acc 0 a.fill.toNat ++ chunk)] })

/-- The initial-frame case of `RX_NOTIFY` (R167, R170): with no accumulator, a frame that declares no more than its chunk
completes at once with the first `declared` bytes of the chunk; any other creates an accumulator that holds the chunk at
ACC's addresses 0, 1, … and outputs nothing. Whatever four bytes the frame begins with are the channel. That ACC is then in
canonical form, and that no address above the chunk holds a value, is the model's choice (log entry 9). -/
def Obligations.InitialFrameStartsOrCompletesAMessage : Prop :=
  ∀ (s : State) (ch : ChannelId) (command h l : Byte) (chunk : Bytes) (len : BitVec 16),
    s.rx = none → len.toNat = 256 * h.toNat + l.toNat →
    (len.toNat ≤ chunk.length →
      exec (.rxNotify ([ch.b0, ch.b1, ch.b2, ch.b3, command, h, l] ++ chunk)) s = .next { s with
        result := .done
        outputs := s.outputs ++ [.messageReceived ch command (chunk.take len.toNat)] }) ∧
    (chunk.length < len.toNat → ∃ m : Memory,
      exec (.rxNotify ([ch.b0, ch.b1, ch.b2, ch.b3, command, h, l] ++ chunk)) s = .next { s with
        rx := some { channel := ch, command := command, declaredLen := len,
                     fill := BitVec.ofNat 16 chunk.length, expectedSeq := 0 }
        acc := m
        result := .done } ∧
      Memory.wf m ∧ Memory.readBytes m 0 chunk.length = chunk ∧ ∀ x, Memory.read m x = chunk[x]?)

/-- A continuation frame with the right channel and sequence number that leaves the message incomplete, of any chunk length, is
appended at the fill level and advances the expected number by 1; every byte of ACC outside the bytes stored is as before
(R166, R173, R66). -/
def Obligations.ContinuationFrameIsAppended : Prop :=
  ∀ (s : State) (a : Accumulator) (chunk : Bytes),
    Inv s → s.rx = some a → a.expectedSeq ≠ 128 → a.fill.toNat + chunk.length < a.declaredLen.toNat →
      ∃ m : Memory,
        exec (.rxNotify (a.channel.bytes ++ a.expectedSeq :: chunk)) s = .next { s with
          rx := some { a with fill := BitVec.ofNat 16 (a.fill.toNat + chunk.length), expectedSeq := a.expectedSeq + 1 }
          acc := m
          result := .done } ∧
        Memory.readBytes m 0 (a.fill.toNat + chunk.length) = Memory.readBytes s.acc 0 a.fill.toNat ++ chunk ∧
        ∀ x, Memory.read m x =
          if a.fill.toNat ≤ x ∧ x < a.fill.toNat + chunk.length then chunk[x - a.fill.toNat]? else Memory.read s.acc x

/-- The continuation frame that makes the accumulated length reach the declared length emits the message, the buffer followed
by the chunk, and clears the accumulator in the same operation; the payload has the declared length (R174). -/
def Obligations.LastContinuationFrameCompletes : Prop :=
  ∀ (s : State) (a : Accumulator) (chunk : Bytes),
    Inv s → s.rx = some a → a.expectedSeq ≠ 128 → a.fill.toNat + chunk.length = a.declaredLen.toNat →
      ∃ p : Bytes,
        exec (.rxNotify (a.channel.bytes ++ a.expectedSeq :: chunk)) s = .next { s with
          rx := none
          acc := []
          result := .done
          outputs := s.outputs ++ [.messageReceived a.channel a.command p] } ∧
        p = Memory.readBytes s.acc 0 a.fill.toNat ++ chunk ∧ p.length = a.declaredLen.toNat

/-- The info report is 64 bytes, `BUILD_INFO` makes it under `CHANNEL_ID`, and received with no accumulator it yields the message
of command C1 and the one byte 69 (R93, whose four channel bytes are the spec's own inference; R237; log entry 11). -/
def Obligations.InfoReportYieldsItsOneByte : Prop :=
  ∀ (s : State) (ch : ChannelId),
    (encode (.infoReport ch) = [ch.b0, ch.b1, ch.b2, ch.b3, 0xC1, 0x00, 0x01, 0x69] ++ List.replicate 56 0x00 ∧
      (encode (.infoReport ch)).length = 64) ∧
    buildInfo s = encode (.infoReport s.channelId) ∧
    (s.rx = none → exec (.infoReport ch) s = .next { s with
      result := .done, outputs := s.outputs ++ [.messageReceived ch 0xC1 [0x69]] })

/-- A buffer shorter than its header raises `FrameTooShort`: below 7 bytes with no accumulator, nothing else changing; below 5
bytes with one, which is discarded (R169). -/
def Obligations.ShortBuffersRaiseFrameTooShort : Prop :=
  ∀ (s : State) (b : Bytes),
    (s.rx = none → b.length < 7 → exec (.rxNotify b) s = .next { s with
      result := .error .frameTooShort, outputs := s.outputs ++ [.error .frameTooShort] }) ∧
    (s.rx.isSome → b.length < 5 → exec (.rxNotify b) s = .next { s with
      rx := none, acc := [], result := .error .frameTooShort, outputs := s.outputs ++ [.error .frameTooShort] })

/-- With an accumulator the tests are made in the order length, channel, sequence, total length; the first that fails decides
the error, and each discards the accumulator (R176, R168, R171, R175). -/
def Obligations.ReassemblyErrorsInOrder : Prop :=
  ∀ (s : State) (a : Accumulator) (b : Bytes) (e : BlockError), s.rx = some a →
    ((b.length < 5 ∧ e = .frameTooShort) ∨
      (5 ≤ b.length ∧ b.take 4 ≠ a.channel.bytes ∧ e = .channelMismatch) ∨
      (5 ≤ b.length ∧ b.take 4 = a.channel.bytes ∧ (a.expectedSeq = 128 ∨ b[4]? ≠ some a.expectedSeq) ∧
        e = .outOfOrderFrame) ∨
      (5 ≤ b.length ∧ b.take 4 = a.channel.bytes ∧ a.expectedSeq ≠ 128 ∧ b[4]? = some a.expectedSeq ∧
        a.declaredLen.toNat < a.fill.toNat + (b.length - 5) ∧ e = .overlongMessage)) →
    exec (.rxNotify b) s = .next { s with
      rx := none, acc := [], result := .error e, outputs := s.outputs ++ [.error e] }

/-- At `expected_seq = 128` no frame can be accepted, whatever its byte 4; and a byte 4 of 128 or more is never accepted, in any
state of the invariant (R172, R96). -/
def Obligations.SequenceSpaceEndsAt128 : Prop :=
  ∀ (s : State) (a : Accumulator) (b : Bytes) (v : Byte), s.rx = some a →
    b.take 4 = a.channel.bytes → b[4]? = some v →
    (a.expectedSeq = 128 ∨ (Inv s ∧ 128 ≤ v.toNat)) →
      exec (.rxNotify b) s = .next { s with
        rx := none, acc := [], result := .error .outOfOrderFrame, outputs := s.outputs ++ [.error .outOfOrderFrame] }

/-- Every `MessageReceived` carries a payload of the declared length of its message's initial frame (R177, which the
spec marks as its own inference). -/
def Obligations.MessagesHaveTheDeclaredLength : Prop :=
  ∀ (s t : State) (b : Bytes) (ch : ChannelId) (command : Byte) (p : Bytes),
    Inv s → exec (.rxNotify b) s = .next t → t.outputs = s.outputs ++ [.messageReceived ch command p] →
      (s.rx = none → ∃ h l : Byte, b[5]? = some h ∧ b[6]? = some l ∧ p.length = 256 * h.toNat + l.toNat) ∧
      (∀ a, s.rx = some a → p.length = a.declaredLen.toNat)

/-- No operation but `RX_NOTIFY`, `RX_TIMEOUT`, `LINK_DISCONNECT` and `RESET` (and an arriving frame) changes `rx` or any byte of
ACC (R180, which the spec marks as its own inference; log entry 11 for the frames). -/
def Obligations.OnlyReceiveOperationsChangeRx : Prop :=
  ∀ (i : Instr) (s t : State), exec i s = .next t → mayChangeRx i = false → t.rx = s.rx ∧ t.acc = s.acc

/-- While an accumulator lives its channel, command and declared length do not change, and one operation leaves its fill level
and expected sequence number as they are or, accepting a continuation frame, advances the number by exactly 1 and never lowers
the level (R25, R26, R27, R28, R29). -/
def Obligations.LivingAccumulatorKeepsItsHeader : Prop :=
  ∀ (i : Instr) (s t : State) (a b : Accumulator), exec i s = .next t → s.rx = some a → t.rx = some b →
    b.channel = a.channel ∧ b.command = a.command ∧ b.declaredLen = a.declaredLen ∧
    ((b.fill = a.fill ∧ b.expectedSeq = a.expectedSeq) ∨
      (a.fill.toNat ≤ b.fill.toNat ∧ b.expectedSeq = a.expectedSeq + 1))

/-- `RX_TIMEOUT` discards an accumulator in progress with `IncompleteMessage`, and does nothing without one (R251). -/
def Obligations.TimeoutDiscardsThePartialMessage : Prop :=
  ∀ (s : State),
    (s.rx.isSome → exec .rxTimeout s = .next { s with
      rx := none, acc := [], result := .error .incompleteMessage, outputs := s.outputs ++ [.error .incompleteMessage] }) ∧
    (s.rx = none → exec .rxTimeout s = .next { s with result := .done })

/-- `LINK_DISCONNECT`: a pending session fails and its frames are dropped, with no event of its own; a partial message is
discarded with `IncompleteMessage`; all in one operation (R250). -/
def Obligations.DisconnectAbortsBothSides : Prop :=
  ∀ (s : State),
    (s.txStatus = .pending → s.rx.isSome → exec .linkDisconnect s = .next { s with
      txStatus := .failed, txFifo := [], rx := none, acc := [],
      result := .error .incompleteMessage, outputs := s.outputs ++ [.error .incompleteMessage] }) ∧
    (s.txStatus = .pending → s.rx = none → exec .linkDisconnect s = .next { s with
      txStatus := .failed, txFifo := [], result := .done }) ∧
    (s.txStatus ≠ .pending → s.rx.isSome → exec .linkDisconnect s = .next { s with
      rx := none, acc := [],
      result := .error .incompleteMessage, outputs := s.outputs ++ [.error .incompleteMessage] }) ∧
    (s.txStatus ≠ .pending → s.rx = none → exec .linkDisconnect s = .next { s with result := .done })

/-! The sequencer. -/

/-- `TX_START` (R191): with no session `Pending` it loads the FIFO, the counters, the clock sample and the total, and the session
is `Pending`; while one is `Pending`, `TX_START`, and `SEND` of a message that can be encoded, raise `SessionBusy` and change no
state of the block (R192). -/
def Obligations.StartBeginsASessionOrIsBusy : Prop :=
  ∀ (s : State) (now : BitVec 32),
    (∀ (frames : List Bytes) (total : BitVec 16), framesInDomain frames → s.txStatus ≠ .pending →
      exec (.txStart frames total now) s = .next { s with
        txStatus := .pending
        txFifo := frames
        txSubmitted := BitVec.ofNat 8 frames.length
        txAcked := 0
        txStartTs := now
        txTotalBytes := total
        result := .done }) ∧
    (∀ (frames : List Bytes) (total : BitVec 16), framesInDomain frames → s.txStatus = .pending →
      exec (.txStart frames total now) s = .next { s with
        result := .error .sessionBusy, outputs := s.outputs ++ [.error .sessionBusy] }) ∧
    (∀ (command : Byte) (p : Bytes) (mtu : BitVec 16), s.txStatus = .pending →
      8 ≤ mtu.toNat → p.length ≤ min 65535 (129 * mtu.toNat - 647) →
      exec (.send command p mtu now) s = .next { s with
        result := .error .sessionBusy, outputs := s.outputs ++ [.error .sessionBusy] })

/-- The domain of `TX_START` (R194): outside it the operation is refused, whatever the state; inside it, whatever the frames hold,
it completes; and the list of a successful `ENCODE` is inside. That it is refused while a session is `Pending` too, where R192 by
its words gives `SessionBusy`, is the model's reading of R194 (log entry 14). -/
def Obligations.DomainOfStart : Prop :=
  ∀ (s : State) (frames : List Bytes) (total : BitVec 16) (now : BitVec 32),
    ((frames.length = 0 ∨ 129 < frames.length ∨ ∃ f ∈ frames, f.length = 0 ∨ 65535 < f.length) →
      exec (.txStart frames total now) s = .refused .txStartOutsideDomain) ∧
    (1 ≤ frames.length → frames.length ≤ 129 → (∀ f ∈ frames, 1 ≤ f.length ∧ f.length ≤ 65535) →
      ∃ t, exec (.txStart frames total now) s = .next t) ∧
    (∀ (command : Byte) (p : Bytes) (mtu : BitVec 16),
      exec (.encode command p mtu) s = .next { s with result := .frames frames } →
      1 ≤ frames.length ∧ frames.length ≤ 129 ∧ ∀ f ∈ frames, 1 ≤ f.length ∧ f.length ≤ 65535)

/-- `TX_SUBMIT` hands the head of the FIFO to the transport; counters and status do not change (R195). Which confirmation the
transport now owes is environment state, of which nothing is said here. -/
def Obligations.SubmitHandsOverTheHead : Prop :=
  ∀ (s : State) (f : Bytes) (fs : List Bytes), s.txFifo = f :: fs → ∃ owed : List (BitVec 8),
    exec .txSubmit s = .next { s with
      txFifo := fs
      inflight := owed
      outputs := s.outputs ++ [.submit f]
      result := .done }

/-- Frames are handed over in FIFO order: as many `TX_SUBMIT` steps as there are frames output them in list order and empty the
FIFO (R71). -/
def Obligations.FramesLeaveInListOrder : Prop :=
  ∀ (s : State), ∃ t,
    runOps (List.replicate s.txFifo.length .txSubmit) s = .next t ∧
    t.outputs = s.outputs ++ s.txFifo.map .submit ∧ t.txFifo = [] ∧
    t.txSubmitted = s.txSubmitted ∧ t.txAcked = s.txAcked ∧ t.txStatus = s.txStatus

/-- Which confirmations are counted (R199): those of a `Pending` session with fewer counted than handed over and those of a
`Failed` one with fewer counted than submitted advance `tx_acked`, with or without an error; every other one changes no state of
the block and outputs nothing, even if it carries an error. -/
def Obligations.ConfirmationsAreCountedOrIgnored : Prop :=
  ∀ (s : State) (index : BitVec 8) (err : Bool) (now : BitVec 32),
    (((s.txStatus = .pending ∧ s.txAcked.toNat < s.txSubmitted.toNat - s.txFifo.length) ∨
        (s.txStatus = .failed ∧ s.txAcked.toNat < s.txSubmitted.toNat)) →
      ∃ t, exec (.txConfirm index err now) s = .next t ∧ t.txAcked = s.txAcked + 1) ∧
    ((s.txStatus = .idle ∨ s.txStatus = .completed ∨
        (s.txStatus = .pending ∧ s.txSubmitted.toNat - s.txFifo.length ≤ s.txAcked.toNat) ∨
        (s.txStatus = .failed ∧ s.txSubmitted.toNat ≤ s.txAcked.toNat)) →
      ∃ owed : List (BitVec 8),
        exec (.txConfirm index err now) s = .next { s with inflight := owed, result := .done })

/-- A counted confirmation without an error that is not the last of a `Pending` session advances `tx_acked` and does nothing else
(R198). -/
def Obligations.CountedConfirmationAdvancesTheCount : Prop :=
  ∀ (s : State) (index : BitVec 8) (now : BitVec 32),
    s.txStatus = .pending → s.txAcked.toNat < s.txSubmitted.toNat - s.txFifo.length →
    s.txAcked.toNat + 1 < s.txSubmitted.toNat →
      ∃ owed : List (BitVec 8), exec (.txConfirm index false now) s = .next { s with
        inflight := owed, txAcked := s.txAcked + 1, result := .done }

/-- The confirmation that makes `acked` reach `submitted` completes the session: status, meter registers and the one event, with
elapsed time modulo 2^32 and the rate in bytes per second, or none when no millisecond has passed (R201). -/
def Obligations.LastConfirmationCompletes : Prop :=
  ∀ (s : State) (index : BitVec 8) (now : BitVec 32),
    s.txStatus = .pending → s.txAcked.toNat + 1 = s.txSubmitted.toNat → s.txFifo = [] →
    ∀ (elapsed : BitVec 32) (ind : Bool) (rate : Option (BitVec 32)),
      elapsed = now - s.txStartTs →
      (ind = if elapsed = 0 then true else false) →
      (rate = if elapsed = 0 then none
        else some (BitVec.ofNat 32 (s.txTotalBytes.toNat * 1000 / elapsed.toNat))) →
      ∃ owed : List (BitVec 8), exec (.txConfirm index false now) s = .next { s with
        inflight := owed
        txAcked := s.txAcked + 1
        txStatus := .completed
        mValid := true
        mTotalBytes := some s.txTotalBytes
        mElapsedMs := some elapsed
        mIndeterminate := some ind
        mRate := rate
        result := .done
        outputs := s.outputs ++ [.transferCompleted s.txTotalBytes elapsed ind rate] }

/-- The first counted confirmation with an error fails the session, drops the frames still queued and raises
`WriteFailed(index)`; later ones raise their own and change nothing but the count, ones without an error only the count; and
whatever is done in a `Failed` session, it does not become `Completed`, and but for `RESET` the meter's registers stay (R200). -/
def Obligations.FailedConfirmationFailsTheSession : Prop :=
  ∀ (s : State) (index : BitVec 8) (now : BitVec 32),
    (s.txStatus = .pending → s.txAcked.toNat < s.txSubmitted.toNat - s.txFifo.length →
      ∃ owed : List (BitVec 8), exec (.txConfirm index true now) s = .next { s with
        inflight := owed
        txAcked := s.txAcked + 1
        txStatus := .failed
        txFifo := []
        result := .error (.writeFailed index)
        outputs := s.outputs ++ [.error (.writeFailed index)] }) ∧
    (s.txStatus = .failed → s.txAcked.toNat < s.txSubmitted.toNat →
      ∃ owed : List (BitVec 8),
        exec (.txConfirm index true now) s = .next { s with
          inflight := owed
          txAcked := s.txAcked + 1
          result := .error (.writeFailed index)
          outputs := s.outputs ++ [.error (.writeFailed index)] } ∧
        exec (.txConfirm index false now) s = .next { s with
          inflight := owed, txAcked := s.txAcked + 1, result := .done }) ∧
    ∀ (i : Instr) (t : State), s.txStatus = .failed → exec i s = .next t →
      t.txStatus ≠ .completed ∧
      (i = .reset ∨ (t.mValid = s.mValid ∧ t.mTotalBytes = s.mTotalBytes ∧ t.mElapsedMs = s.mElapsedMs ∧
        t.mIndeterminate = s.mIndeterminate ∧ t.mRate = s.mRate))

/-- Completion determinism (R202, which the spec marks as its own inference from R195, R198, R199): from an accepted `TX_START` of N frames, ANY interleaving of the N submissions with N
successful confirmations, each confirmation after a submission it can be for, ends `Completed` with all N counted, the FIFO
empty, the frames output in order, and exactly one `TransferCompleted`, output last, of the session's total and of the time
from the start to the last confirmation. The `index` operands play no part. -/
def Obligations.CompletionWhateverTheOrderOfConfirmations : Prop :=
  ∀ (s : State) (frames : List Bytes) (total : BitVec 16) (now : BitVec 32) (is : List Instr),
    s.txStatus ≠ .pending → framesInDomain frames → Delivery frames.length 0 is →
      ∃ (t : State) (last : BitVec 32) (ind : Bool) (rate : Option (BitVec 32)),
        (clockSamples is).getLast? = some last ∧
        runOps (.txStart frames total now :: is) s = .next t ∧
        t.txStatus = .completed ∧ t.txAcked = BitVec.ofNat 8 frames.length ∧ t.txFifo = [] ∧
        t.outputs = s.outputs ++ frames.map .submit ++ [.transferCompleted total (last - now) ind rate]

/-- The `index` of a confirmation is copied into `WriteFailed` and otherwise ignored (R204): two confirmations that differ in
`index` alone, any two indices, leave the same state of the block; where one with an error is counted (R199), each returns and
outputs `WriteFailed` of its own index; in every other case neither does, and they return and output the same. -/
def Obligations.ConfirmIndexIsOnlyReported : Prop :=
  ∀ (s : State) (x y : BitVec 8) (err : Bool) (now : BitVec 32), ∃ t u : State,
    exec (.txConfirm x err now) s = .next t ∧ exec (.txConfirm y err now) s = .next u ∧
    { t with inflight := [], result := .nothing, outputs := [] }
      = { u with inflight := [], result := .nothing, outputs := [] } ∧
    if err = true ∧
        ((s.txStatus = .pending ∧ s.txAcked.toNat < s.txSubmitted.toNat - s.txFifo.length) ∨
          (s.txStatus = .failed ∧ s.txAcked.toNat < s.txSubmitted.toNat)) then
      t.result = .error (.writeFailed x) ∧ t.outputs = s.outputs ++ [.error (.writeFailed x)] ∧
        u.result = .error (.writeFailed y) ∧ u.outputs = s.outputs ++ [.error (.writeFailed y)]
    else t.result = u.result ∧ t.outputs = u.outputs ∧ ∀ z, t.result ≠ .error (.writeFailed z)

/-- `SEND` (R203): of a message that can be encoded it is `ENCODE` at the sampled mtu and then `TX_START` of its frames with the
payload length, in one operation; a message that cannot be encoded makes it raise what `ENCODE` raises, even while a session is
pending. In every error case no state of the block changes. -/
def Obligations.SendEncodesThenStarts : Prop :=
  ∀ (s : State) (command : Byte) (p : Bytes) (mtu : BitVec 16) (now : BitVec 32),
    (8 ≤ mtu.toNat → p.length ≤ min 65535 (129 * mtu.toNat - 647) →
      ∃ fs : List Bytes,
        exec (.encode command p mtu) s = .next { s with result := .frames fs } ∧
        exec (.send command p mtu now) s = exec (.txStart fs (BitVec.ofNat 16 p.length) now) s ∧
        (s.txStatus = .pending → exec (.send command p mtu now) s = .next { s with
          result := .error .sessionBusy, outputs := s.outputs ++ [.error .sessionBusy] }) ∧
        (s.txStatus ≠ .pending → exec (.send command p mtu now) s = .next { s with
          txStatus := .pending
          txFifo := fs
          txSubmitted := BitVec.ofNat 8 fs.length
          txAcked := 0
          txStartTs := now
          txTotalBytes := BitVec.ofNat 16 p.length
          result := .done })) ∧
    ((mtu.toNat < 8 ∨ min 65535 (129 * mtu.toNat - 647) < p.length) →
      ∃ e,
        exec (.encode command p mtu) s = .next { s with result := .error e, outputs := s.outputs ++ [.error e] } ∧
        exec (.send command p mtu now) s = .next { s with result := .error e, outputs := s.outputs ++ [.error e] })

/-- The transitions of `tx_status` (R205, which the spec marks as its own inference, and R30, R206): `Idle` is entered only by `RESET`; `Completed` and `Failed` are left only by a
start and `RESET`; `Pending` is left only by a confirmation, a disconnect and `RESET`; only a start enters `Pending`. -/
def Obligations.SessionStatusTransitions : Prop :=
  ∀ (i : Instr) (s t : State), exec i s = .next t → s.txStatus ≠ t.txStatus →
    (i = .reset ∧ t.txStatus = .idle) ∨
    (s.txStatus ≠ .pending ∧ t.txStatus = .pending ∧
      ((∃ f b n, i = .txStart f b n) ∨ ∃ c p m n, i = .send c p m n)) ∨
    (s.txStatus = .pending ∧ t.txStatus = .completed ∧ ∃ x n, i = .txConfirm x false n) ∨
    (s.txStatus = .pending ∧ t.txStatus = .failed ∧ ((∃ x n, i = .txConfirm x true n) ∨ i = .linkDisconnect))

/-- No operation outside the send side changes the session, its FIFO, its counters or the meter's registers (R74, R37, R38). -/
def Obligations.OnlySendOperationsChangeTheSession : Prop :=
  ∀ (i : Instr) (s t : State), exec i s = .next t → mayChangeSession i = false →
    t.txStatus = s.txStatus ∧ t.txFifo = s.txFifo ∧ t.txSubmitted = s.txSubmitted ∧ t.txAcked = s.txAcked ∧
    t.txStartTs = s.txStartTs ∧ t.txTotalBytes = s.txTotalBytes ∧ t.mValid = s.mValid ∧
    t.mTotalBytes = s.mTotalBytes ∧ t.mElapsedMs = s.mElapsedMs ∧ t.mIndeterminate = s.mIndeterminate ∧
    t.mRate = s.mRate

/-- `tx_submitted`, `tx_start_ts` and `tx_total_bytes` change only at an accepted start and at `RESET` (R32, R34, R35). -/
def Obligations.SessionParametersChangeOnlyAtAStart : Prop :=
  ∀ (i : Instr) (s t : State), exec i s = .next t →
    (t.txSubmitted = s.txSubmitted ∧ t.txStartTs = s.txStartTs ∧ t.txTotalBytes = s.txTotalBytes) ∨
    i = .reset ∨ (s.txStatus ≠ .pending ∧ t.txStatus = .pending)

/-! The meter. -/

/-- `METER`: with a difference of 0 the result is indeterminate and has no rate; otherwise the rate is the floor of
`total_bytes * 1000 / elapsed` (R220, R223). -/
def Obligations.MeterResults : Prop :=
  ∀ (s : State) (total : BitVec 16) (start now : BitVec 32),
    (now = start → exec (.meter total start now) s = .next { s with
      result := .metered ⟨0, true, none⟩ }) ∧
    (now ≠ start → ∃ r : BitVec 32,
      exec (.meter total start now) s = .next { s with
        result := .metered ⟨now - start, false, some r⟩ } ∧
      r.toNat = total.toNat * 1000 / (now - start).toNat ∧ r.toNat ≤ 65535000)

/-- Elapsed time is the true one whenever it is below 2^32 ms, whether or not the counter wrapped in between (R221). -/
def Obligations.ElapsedTimeSurvivesTheWrap : Prop :=
  ∀ (s : State) (total : BitVec 16) (start : BitVec 32) (d : Nat), d < 4294967296 →
    ∃ m : MeterResult,
      exec (.meter total start (BitVec.ofNat 32 (start.toNat + d))) s = .next { s with result := .metered m } ∧
      m.elapsedMs.toNat = d

/-- The meter's result registers are written together, only by the completion step of `TX_CONFIRM`, with the values of the
`TransferCompleted` event it emits, and cleared only by reset (R37). -/
def Obligations.MeterRegistersAreWrittenOnlyByCompletion : Prop :=
  ∀ (i : Instr) (s t : State), exec i s = .next t →
    (t.mValid = s.mValid ∧ t.mTotalBytes = s.mTotalBytes ∧ t.mElapsedMs = s.mElapsedMs ∧
      t.mIndeterminate = s.mIndeterminate ∧ t.mRate = s.mRate) ∨
    (i = .reset ∧ t.mValid = false ∧ t.mTotalBytes = none ∧ t.mElapsedMs = none ∧ t.mIndeterminate = none ∧
      t.mRate = none) ∨
    (∃ x now b e ind r, i = .txConfirm x false now ∧ s.txStatus = .pending ∧ t.txStatus = .completed ∧
      t.outputs = s.outputs ++ [.transferCompleted b e ind r] ∧ t.mValid = true ∧ t.mTotalBytes = some b ∧
      t.mElapsedMs = some e ∧ t.mIndeterminate = some ind ∧ t.mRate = r ∧ (r.isSome ↔ ind = false))

/-! Configuration. -/

/-- `CFG_SET_CHANNEL` writes `CHANNEL_ID` and nothing else of the block, neither queued frames nor `rx.channel`, at any time; and an
`ENCODE` after it makes frames that begin with the new channel (R253). -/
def Obligations.SetChannelWritesOnlyChannelId : Prop :=
  ∀ (s : State) (ch : ChannelId),
    exec (.cfgSetChannel ch) s = .next { s with channelId := ch, result := .done } ∧
    ∀ (command : Byte) (p : Bytes) (mtu : BitVec 16) (t : State) (fs : List Bytes),
      runOps [.cfgSetChannel ch, .encode command p mtu] s = .next t → t.result = .frames fs →
        ∀ f ∈ fs, f.take 4 = [ch.b0, ch.b1, ch.b2, ch.b3]

/-- `CHANNEL_ID` is written only by `CFG_SET_CHANNEL` and by reset (R23). -/
def Obligations.OnlyConfigurationChangesChannelId : Prop :=
  ∀ (i : Instr) (s t : State), exec i s = .next t → t.channelId ≠ s.channelId →
    (∃ ch, i = .cfgSetChannel ch ∧ t.channelId = ch) ∨ (i = .reset ∧ t.channelId = State.reset.channelId)

/-! Whole-machine rules. -/

/-- An operation outputs at most one item, after all earlier outputs, and it returns an error exactly when that item is the
`Error` event of it: so an operation that raises emits no message and no completion (R265, R279, R74). -/
def Obligations.OneOutputAndErrorsAreBoth : Prop :=
  ∀ (i : Instr) (s t : State), exec i s = .next t →
    ∃ outs : List Output, t.outputs = s.outputs ++ outs ∧ outs.length ≤ 1 ∧
      ∀ e, t.result = .error e ↔ outs = [.error e]

/-- Exactly the reserved codes, a `TX_START` outside its domain and a `TX_SUBMIT` on an empty FIFO have no meaning; every other
operation completes in every state, errors included (R105 (a), R194, R265; that a presented `TX_SUBMIT` on an empty FIFO is
refused is the model's reading of R195, log entry 13; that a `TX_START` outside its domain is refused while `Pending` too is its
reading of R194 against R192, log entry 14; that buffers above 65535 bytes complete, which U7 lets a model refuse, is its
choice, log entry 15). -/
def Obligations.EveryOtherOperationCompletes : Prop :=
  ∀ (i : Instr) (s : State),
    (HasNoMeaning i s → ∃ r, exec i s = .refused r) ∧ (¬HasNoMeaning i s → ∃ t, exec i s = .next t)

/-- The reserved operation codes are refused, in every state (R105 (a)). -/
def Obligations.ReservedCodesAreRefused : Prop :=
  ∀ (s : State), exec .reserved0 s = .refused (.reservedCode 0x0) ∧
    exec .reservedD s = .refused (.reservedCode 0xD) ∧ exec .reservedE s = .refused (.reservedCode 0xE)

/-- The receive side and the send side share no state: an `RX_NOTIFY` and a `TX_CONFIRM` commute, but for the order of their
outputs and which of them returned last (R74, which the spec marks as its own inference). -/
def Obligations.NotificationAndConfirmationCommute : Prop :=
  ∀ (s : State) (b : Bytes) (index : BitVec 8) (err : Bool) (now : BitVec 32),
    ∃ (t u : State) (x y : List Output),
      runOps [.rxNotify b, .txConfirm index err now] s = .next t ∧
      runOps [.txConfirm index err now, .rxNotify b] s = .next u ∧
      t.outputs = s.outputs ++ x ++ y ∧ u.outputs = s.outputs ++ y ++ x ∧
      { t with outputs := [], result := .nothing } = { u with outputs := [], result := .nothing }

/-- The invariant (R36 (i) to (vi), which the spec marks as its own inference, and R27 to R29, R31, R37, and the canonical form of
ACC, which is the model's, log entry 9) holds at reset. -/
def Obligations.ResetMeetsTheInvariant : Prop := Inv State.reset

/-- Every step keeps the invariant (R36, which the spec marks as its own inference, R27 to R29, R31, R37, and the canonical form of
ACC, log entry 9), whatever is presented, from every state that meets it. -/
def Obligations.EveryStepKeepsTheInvariant : Prop :=
  ∀ (s t : State), Inv s → step s = .next t → Inv t
end

