-- ==== Sys2Proof/Laws/Decode.lean ====
section
/-! SUPPORT. Each reader of the decoder gives back what its writer of the encoder wrote, and leaves the rest. -/

namespace Sys2Proof

@[simp] theorem andThen_ok {α β : Type} (a : α) (r : Bytes) (f : α → Bytes → Read β) :
    andThen (.ok (a, r)) f = f a r := rfl

@[simp] theorem andThen_error {α β : Type} (e : DecodeReject) (f : α → Bytes → Read β) :
    andThen (.error e : Read α) f = .error e := rfl

/-- What `andThen` accepts: both readers accept. -/
theorem andThen_eq_ok {α β : Type} (x : Read α) (f : α → Bytes → Read β) (b : β × Bytes) (h : andThen x f = .ok b) :
    ∃ a r, x = .ok (a, r) ∧ f a r = .ok b := by
  unfold andThen at h
  split at h
  · exact ⟨_, _, rfl, h⟩
  · exact absurd h (by simp)

@[simp] theorem readByte_cons (b : Byte) (r : Bytes) : readByte (b :: r) = .ok (b, r) := rfl

/-- `ube16` undoes `be16` (00_scope.md R10). -/
theorem ube16_be16 (v : BitVec 16) :
    ube16 (BitVec.ofNat 8 (v.toNat / 256)) (BitVec.ofNat 8 (v.toNat % 256)) = v := by
  apply BitVec.eq_of_toNat_eq
  have := v.isLt
  simp only [ube16, BitVec.toNat_ofNat]
  omega

/-- `ube32` undoes `be32`. -/
theorem ube32_be32 (v : BitVec 32) :
    ube32 (BitVec.ofNat 8 (v.toNat / 16777216)) (BitVec.ofNat 8 (v.toNat / 65536 % 256))
      (BitVec.ofNat 8 (v.toNat / 256 % 256)) (BitVec.ofNat 8 (v.toNat % 256)) = v := by
  apply BitVec.eq_of_toNat_eq
  have := v.isLt
  simp only [ube32, BitVec.toNat_ofNat]
  omega

/-- The value of two bytes never wraps (R94, 00_scope.md R18 (d)). -/
theorem toNat_ube16 (h l : Byte) : (ube16 h l).toNat = 256 * h.toNat + l.toNat := by
  have := h.isLt
  have := l.isLt
  simp only [ube16, BitVec.toNat_ofNat]
  omega

/-- `be16` undoes `ube16` (00_scope.md R10). -/
theorem be16_ube16 (h l : Byte) : be16 (ube16 h l) = [h, l] := by
  have := l.isLt
  simp only [be16, toNat_ube16, List.cons.injEq, and_true]
  constructor <;> apply BitVec.eq_of_toNat_eq <;> simp only [BitVec.toNat_ofNat] <;> omega

@[simp] theorem readU16_be16 (v : BitVec 16) (r : Bytes) : readU16 (be16 v ++ r) = .ok (v, r) := by
  simp [be16, readU16, ube16_be16]

@[simp] theorem readU32_be32 (v : BitVec 32) (r : Bytes) : readU32 (be32 v ++ r) = .ok (v, r) := by
  simp [be32, readU32, ube32_be32]

@[simp] theorem readChannel_bytes (c : ChannelId) (r : Bytes) : readChannel (c.bytes ++ r) = .ok (c, r) := rfl

@[simp] theorem readFlag_flagByte (b : Bool) (r : Bytes) : readFlag (flagByte b :: r) = .ok (b, r) := by
  cases b <;> simp [flagByte, readFlag]

@[simp] theorem readOptChannel_bytes (c : Option ChannelId) (r : Bytes) :
    readOptChannel (optChannelBytes c ++ r) = .ok (c, r) := by
  cases c <;> simp [optChannelBytes, readOptChannel]

@[simp] theorem readBytes_append (bs r : Bytes) : readBytes bs.length (bs ++ r) = .ok (bs, r) := by
  simp [readBytes]

/-- A byte string of at most 65535 bytes is read back behind its 16-bit length. -/
theorem readBlob16_blob16 (bs r : Bytes) (h : bs.length ≤ 65535) : readBlob16 (blob16 bs ++ r) = .ok (bs, r) := by
  simp [readBlob16, blob16, Nat.mod_eq_of_lt (show bs.length < 65536 by omega)]

/-- A byte string shorter than 2^32 bytes is read back behind its 32-bit length. -/
theorem readBlob32_blob32 (bs r : Bytes) (h : bs.length < 4294967296) :
    readBlob32 (blob32 bs ++ r) = .ok (bs, r) := by
  simp [readBlob32, blob32, Nat.mod_eq_of_lt h]

/-- Frames of 1 to 65535 bytes are read back behind their lengths less 1. -/
theorem readFrames_framesBytes (fs : List Bytes) (r : Bytes) (h : ∀ f ∈ fs, 1 ≤ f.length ∧ f.length ≤ 65535) :
    readFrames fs.length (framesBytes fs ++ r) = .ok (fs, r) := by
  induction fs with
  | nil => rfl
  | cons f fs ih =>
    have hf := h f (by simp)
    have hlen : (BitVec.ofNat 16 (f.length - 1)).toNat + 1 = f.length := by
      rw [BitVec.toNat_ofNat]; omega
    simp only [List.length_cons, readFrames, framesBytes, List.append_assoc, readU16_be16, andThen_ok, hlen,
      readBytes_append, ih fun g hg => h g (by simp [hg])]

/-- What the readers accept is at least as long as what they take. -/
theorem readBytes_eq_ok (n : Nat) (bs : Bytes) (x r : Bytes) (h : readBytes n bs = .ok (x, r)) :
    x.length = n ∧ bs = x ++ r := by
  unfold readBytes at h
  split at h
  · next hn =>
    simp only [Except.ok.injEq, Prod.mk.injEq] at h
    obtain ⟨rfl, rfl⟩ := h
    exact ⟨by simp [hn], (List.take_append_drop n bs).symm⟩
  · exact absurd h (by simp)

@[simp] theorem ChannelId.length_bytes (c : ChannelId) : c.bytes.length = 4 := rfl

@[simp] theorem length_be16 (v : BitVec 16) : (be16 v).length = 2 := rfl

@[simp] theorem length_be32 (v : BitVec 32) : (be32 v).length = 4 := rfl

@[simp] theorem length_initialFrame (c : ChannelId) (command : Byte) (len : BitVec 16) (x : Bytes) :
    (initialFrame c command len x).length = 7 + x.length := by
  simp [initialFrame]; omega

@[simp] theorem length_continuationFrame (c : ChannelId) (q : Byte) (x : Bytes) :
    (continuationFrame c q x).length = 5 + x.length := by
  simp [continuationFrame]; omega

end Sys2Proof
end

