-- ==== Sys2Proof/Laws/Operands.lean ====
section
/-! SUPPORT. What the pure computations on operands give: taking frames apart, cutting a message into frames, and the
fields of a 32-bit register. -/

namespace Sys2Proof.Machine

/-! Taking frames apart. -/

@[simp] theorem channelDiffers_none (ch : ChannelId) : channelDiffers ch none = false := rfl

@[simp] theorem channelDiffers_some (ch ch' : ChannelId) : channelDiffers ch (some ch') = (ch != ch') := rfl

/-- `DECODE_INITIAL` of an initial frame (41_frame_decoder.md R151). -/
theorem parseInitial_frame (ch : ChannelId) (c : Byte) (len : BitVec 16) (x : Bytes) (acc : Option ChannelId) :
    parseInitial (initialFrame ch c len x) acc =
      if channelDiffers ch acc then .error .channelMismatch else .ok ⟨ch, c, len, x⟩ := by
  simp [initialFrame, ChannelId.bytes, be16, parseInitial, ube16_be16]

/-- `DECODE_CONT` of a continuation frame (R152). -/
theorem parseContinuation_frame (ch : ChannelId) (q : Byte) (x : Bytes) (acc : Option ChannelId) :
    parseContinuation (continuationFrame ch q x) acc =
      if channelDiffers ch acc then .error .channelMismatch else .ok ⟨ch, q, x⟩ := by
  simp [continuationFrame, ChannelId.bytes, parseContinuation]

/-- A buffer shorter than the initial header (R151). -/
theorem parseInitial_short (b : Bytes) (acc : Option ChannelId) (h : b.length < 7) :
    parseInitial b acc = .error .frameTooShort := by
  unfold parseInitial
  split
  · simp at h; omega
  · rfl

/-- A buffer shorter than the continuation header (R152). -/
theorem parseContinuation_short (b : Bytes) (acc : Option ChannelId) (h : b.length < 5) :
    parseContinuation b acc = .error .frameTooShort := by
  unfold parseContinuation
  split
  · simp at h; omega
  · rfl

/-- Every buffer of at least 7 bytes is an initial frame of some channel, command, length and chunk. -/
theorem initialFrame_of_length (b : Bytes) (h : 7 ≤ b.length) :
    ∃ (ch : ChannelId) (c : Byte) (len : BitVec 16) (x : Bytes), b = initialFrame ch c len x ∧
      ∃ hi lo : Byte, b[5]? = some hi ∧ b[6]? = some lo ∧ len.toNat = 256 * hi.toNat + lo.toNat := by
  match b, h with
  | b0 :: b1 :: b2 :: b3 :: c :: hi :: lo :: x, _ =>
    refine ⟨⟨b0, b1, b2, b3⟩, c, ube16 hi lo, x, ?_, hi, lo, rfl, rfl, toNat_ube16 hi lo⟩
    have := hi.isLt
    have := lo.isLt
    simp only [initialFrame, ChannelId.bytes, be16, toNat_ube16, List.cons_append, List.nil_append, List.cons.injEq,
      true_and, and_true]
    constructor <;> apply BitVec.eq_of_toNat_eq <;> simp <;> omega

/-- Every buffer of at least 5 bytes is a continuation frame of some channel, sequence number and chunk. -/
theorem continuationFrame_of_length (b : Bytes) (h : 5 ≤ b.length) :
    ∃ (ch : ChannelId) (q : Byte) (x : Bytes), b = continuationFrame ch q x := by
  match b, h with
  | b0 :: b1 :: b2 :: b3 :: q :: x, _ => exact ⟨⟨b0, b1, b2, b3⟩, q, x, rfl⟩

theorem ChannelId.bytes_inj (a b : ChannelId) : a.bytes = b.bytes ↔ a = b := by
  cases a; cases b; simp [ChannelId.bytes]

@[simp] theorem take4_continuationFrame (ch : ChannelId) (q : Byte) (x : Bytes) :
    (continuationFrame ch q x).take 4 = ch.bytes := by
  simp [continuationFrame, ChannelId.bytes]

@[simp] theorem get4_continuationFrame (ch : ChannelId) (q : Byte) (x : Bytes) :
    (continuationFrame ch q x)[4]? = some q := by
  simp [continuationFrame, ChannelId.bytes]

@[simp] theorem take4_initialFrame (ch : ChannelId) (c : Byte) (len : BitVec 16) (x : Bytes) :
    (initialFrame ch c len x).take 4 = ch.bytes := by
  simp [initialFrame, ChannelId.bytes]

/-- The info report is an initial frame of command C1, declared length 1 and a chunk of 69 and 56 zeros (R93). -/
theorem infoReportFrame_eq (ch : ChannelId) :
    infoReportFrame ch = initialFrame ch 0xC1 1 (0x69#8 :: List.replicate 56 0) := by
  simp [infoReportFrame, initialFrame, be16]

/-! Cutting a message. -/

/-- At most 128 continuation frames are needed exactly for payloads of at most `129 * mtu - 647` bytes (R134). -/
theorem continuationsNeeded_le_iff (mtu : BitVec 16) (h : 8 ≤ mtu.toNat) (len : Nat) :
    continuationsNeeded mtu len ≤ 128 ↔ len ≤ 129 * mtu.toNat - 647 := by
  unfold continuationsNeeded cap0 capc ceilDiv
  simp only [Config.hdrInit, Config.hdrCont]
  split_ifs with hl
  · constructor
    · intro _; omega
    · intro _; omega
  · rw [Nat.div_le_iff_le_mul_add_pred (by omega)]
    omega

/-- A payload that fits the initial frame needs no continuation (R135). -/
theorem continuationsNeeded_short (mtu : BitVec 16) (len : Nat) (hl : len ≤ mtu.toNat - 7) :
    continuationsNeeded mtu len = 0 := by
  simp [continuationsNeeded, cap0, hl]

/-- The last continuation frame of a longer payload carries at least one byte and at most `mtu - 5` (R135). -/
theorem continuationsNeeded_bounds (mtu : BitVec 16) (h : 8 ≤ mtu.toNat) (len : Nat) (hl : mtu.toNat - 7 < len) :
    1 ≤ continuationsNeeded mtu len ∧
    mtu.toNat - 7 + (continuationsNeeded mtu len - 1) * (mtu.toNat - 5) < len ∧
    len ≤ mtu.toNat - 7 + continuationsNeeded mtu len * (mtu.toNat - 5) := by
  rw [continuationsNeeded, if_neg (by simp [cap0]; omega)]
  simp only [cap0, capc, ceilDiv, Config.hdrInit, Config.hdrCont]
  obtain ⟨q, hq⟩ : ∃ q, q = mtu.toNat - 5 := ⟨_, rfl⟩
  obtain ⟨r, hr⟩ : ∃ r, r = len - (mtu.toNat - 7) := ⟨_, rfl⟩
  have h1 := Nat.div_add_mod (r + q - 1) q
  have h2 := Nat.mod_lt (r + q - 1) (show 0 < q by omega)
  have h3 : 1 ≤ (r + q - 1) / q := (Nat.one_le_div_iff (by omega)).mpr (by omega)
  rw [← hq, ← hr]
  generalize (r + q - 1) / q = n at *
  rw [Nat.mul_comm q n] at h1
  have h4 : (n - 1) * q + q = n * q := by
    obtain ⟨m, rfl⟩ : ∃ m, n = m + 1 := ⟨n - 1, by omega⟩
    rw [Nat.add_sub_cancel]; ring
  refine ⟨h3, ?_, ?_⟩ <;> omega

/-- Continuation frame `k` carries the bytes from its offset on, at most `mtu - 5` of them (R130). -/
theorem continuationAt_eq (ch : ChannelId) (p : Bytes) (mtu : BitVec 16) (k : Nat) :
    continuationAt ch p mtu k = continuationFrame ch (BitVec.ofNat 8 k)
      ((p.drop (mtu.toNat - 7 + k * (mtu.toNat - 5))).take (mtu.toNat - 5)) := by
  simp only [continuationAt, slice, cap0, capc]
  congr 1
  simp [List.take_eq_take_iff]; omega

/-- `MtuTooSmall` is tested first (R140). -/
theorem cutMessage_small (ch : ChannelId) (c : Byte) (p : Bytes) (mtu : BitVec 16) (h : mtu.toNat < 8) :
    cutMessage ch c p mtu = .error .mtuTooSmall := by
  unfold cutMessage
  rw [if_pos (by simpa using h)]

/-- A payload above `Lmax` (R134). -/
theorem cutMessage_large (ch : ChannelId) (c : Byte) (p : Bytes) (mtu : BitVec 16) (h : 8 ≤ mtu.toNat)
    (hl : min 65535 (129 * mtu.toNat - 647) < p.length) : cutMessage ch c p mtu = .error .payloadTooLarge := by
  unfold cutMessage
  rw [if_neg (by simp; omega)]
  split_ifs with h1 h2
  · rfl
  · rfl
  · exfalso
    have := (continuationsNeeded_le_iff mtu h p.length).mp (by simpa using h2)
    simp at h1
    omega

/-- The frames of a payload of at most `Lmax` bytes (R130, R134). -/
theorem cutMessage_ok (ch : ChannelId) (c : Byte) (p : Bytes) (mtu : BitVec 16) (h : 8 ≤ mtu.toNat)
    (hl : p.length ≤ min 65535 (129 * mtu.toNat - 647)) :
    cutMessage ch c p mtu = .ok (initialFrame ch c (BitVec.ofNat 16 p.length) (p.take (mtu.toNat - 7))
      :: (List.range (continuationsNeeded mtu p.length)).map (continuationAt ch p mtu)) := by
  have h1 := (continuationsNeeded_le_iff mtu h p.length).mpr (by omega)
  unfold cutMessage
  rw [if_neg (by simp; omega), if_neg (by simp; omega), if_neg (by simp; omega)]
  congr 3
  unfold slice cap0
  simp [List.take_eq_take_iff, Nat.min_comm]

/-- Everything `cutMessage` can do. -/
theorem cutMessage_cases (ch : ChannelId) (c : Byte) (p : Bytes) (mtu : BitVec 16) :
    (mtu.toNat < 8 ∧ cutMessage ch c p mtu = .error .mtuTooSmall) ∨
    (8 ≤ mtu.toNat ∧ min 65535 (129 * mtu.toNat - 647) < p.length ∧
      cutMessage ch c p mtu = .error .payloadTooLarge) ∨
    (8 ≤ mtu.toNat ∧ p.length ≤ min 65535 (129 * mtu.toNat - 647) ∧
      cutMessage ch c p mtu = .ok (initialFrame ch c (BitVec.ofNat 16 p.length) (p.take (mtu.toNat - 7))
        :: (List.range (continuationsNeeded mtu p.length)).map (continuationAt ch p mtu))) := by
  by_cases h : mtu.toNat < 8
  · exact .inl ⟨h, cutMessage_small _ _ _ _ h⟩
  · by_cases hl : p.length ≤ min 65535 (129 * mtu.toNat - 647)
    · exact .inr (.inr ⟨by omega, hl, cutMessage_ok _ _ _ _ (by omega) hl⟩)
    · exact .inr (.inl ⟨by omega, by omega, cutMessage_large _ _ _ _ (by omega) (by omega)⟩)

/-- The frames of a message meet the domain of `TX_START` (R194, R203). -/
theorem framesInDomain_of_cutMessage (ch : ChannelId) (c : Byte) (p : Bytes) (mtu : BitVec 16) (fs : List Bytes)
    (h : cutMessage ch c p mtu = .ok fs) : framesInDomain fs := by
  rcases cutMessage_cases ch c p mtu with ⟨h1, e⟩ | ⟨h1, h2, e⟩ | ⟨h1, h2, e⟩
  · rw [e] at h; simp at h
  · rw [e] at h; simp at h
  · rw [e] at h
    simp only [Except.ok.injEq] at h
    subst h
    have := (continuationsNeeded_le_iff mtu h1 p.length).mpr (by omega)
    have hm := mtu.isLt
    refine ⟨⟨by simp, by simp; omega⟩, fun f hf => ?_⟩
    simp only [List.mem_cons, List.mem_map] at hf
    rcases hf with rfl | ⟨k, -, rfl⟩
    · simp; omega
    · simp [continuationAt_eq]; omega

/-! Fields of a register. -/

/-- The bytes of a register put together from four (10_state.md R39). -/
theorem extract_ube32 (a b c d : Byte) :
    (ube32 a b c d).extractLsb' 24 8 = a ∧ (ube32 a b c d).extractLsb' 16 8 = b ∧
    (ube32 a b c d).extractLsb' 8 8 = c ∧ (ube32 a b c d).extractLsb' 0 8 = d := by
  have := a.isLt; have := b.isLt; have := c.isLt; have := d.isLt
  refine ⟨?_, ?_, ?_, ?_⟩ <;> apply BitVec.eq_of_toNat_eq <;> simp [ube32, Nat.shiftRight_eq_div_pow] <;> omega

/-- The halves of a register that holds a 16-bit field. -/
theorem extract_setWidth (v : BitVec 16) :
    (v.setWidth 32).extractLsb' 0 16 = v ∧ (v.setWidth 32).extractLsb' 16 16 = 0 := by
  have := v.isLt
  refine ⟨?_, ?_⟩ <;> apply BitVec.eq_of_toNat_eq <;> simp [Nat.shiftRight_eq_div_pow] <;> omega

end Sys2Proof.Machine
end

