-- ==== Sys2Proof/Laws/State.lean ====
section
/-! SUPPORT. One lemma per field per named update of the state, true by rfl; and the fields at reset. -/

namespace Sys2Proof.Machine

variable (s : State)

@[simp] theorem State.setResult_channelId (r : OpResult) : (s.setResult r).channelId = s.channelId := rfl
@[simp] theorem State.setResult_rx (r : OpResult) : (s.setResult r).rx = s.rx := rfl
@[simp] theorem State.setResult_acc (r : OpResult) : (s.setResult r).acc = s.acc := rfl
@[simp] theorem State.setResult_txStatus (r : OpResult) : (s.setResult r).txStatus = s.txStatus := rfl
@[simp] theorem State.setResult_txFifo (r : OpResult) : (s.setResult r).txFifo = s.txFifo := rfl
@[simp] theorem State.setResult_txSubmitted (r : OpResult) : (s.setResult r).txSubmitted = s.txSubmitted := rfl
@[simp] theorem State.setResult_txAcked (r : OpResult) : (s.setResult r).txAcked = s.txAcked := rfl
@[simp] theorem State.setResult_txStartTs (r : OpResult) : (s.setResult r).txStartTs = s.txStartTs := rfl
@[simp] theorem State.setResult_txTotalBytes (r : OpResult) : (s.setResult r).txTotalBytes = s.txTotalBytes := rfl
@[simp] theorem State.setResult_mValid (r : OpResult) : (s.setResult r).mValid = s.mValid := rfl
@[simp] theorem State.setResult_mTotalBytes (r : OpResult) : (s.setResult r).mTotalBytes = s.mTotalBytes := rfl
@[simp] theorem State.setResult_mElapsedMs (r : OpResult) : (s.setResult r).mElapsedMs = s.mElapsedMs := rfl
@[simp] theorem State.setResult_mIndeterminate (r : OpResult) : (s.setResult r).mIndeterminate = s.mIndeterminate := rfl
@[simp] theorem State.setResult_mRate (r : OpResult) : (s.setResult r).mRate = s.mRate := rfl
@[simp] theorem State.setResult_inflight (r : OpResult) : (s.setResult r).inflight = s.inflight := rfl
@[simp] theorem State.setResult_port (r : OpResult) : (s.setResult r).port = s.port := rfl
@[simp] theorem State.setResult_result (r : OpResult) : (s.setResult r).result = r := rfl
@[simp] theorem State.setResult_outputs (r : OpResult) : (s.setResult r).outputs = s.outputs := rfl
@[simp] theorem State.setResult_draws (r : OpResult) : (s.setResult r).draws = s.draws := rfl

@[simp] theorem State.emit_channelId (o : Output) : (s.emit o).channelId = s.channelId := rfl
@[simp] theorem State.emit_rx (o : Output) : (s.emit o).rx = s.rx := rfl
@[simp] theorem State.emit_acc (o : Output) : (s.emit o).acc = s.acc := rfl
@[simp] theorem State.emit_txStatus (o : Output) : (s.emit o).txStatus = s.txStatus := rfl
@[simp] theorem State.emit_txFifo (o : Output) : (s.emit o).txFifo = s.txFifo := rfl
@[simp] theorem State.emit_txSubmitted (o : Output) : (s.emit o).txSubmitted = s.txSubmitted := rfl
@[simp] theorem State.emit_txAcked (o : Output) : (s.emit o).txAcked = s.txAcked := rfl
@[simp] theorem State.emit_txStartTs (o : Output) : (s.emit o).txStartTs = s.txStartTs := rfl
@[simp] theorem State.emit_txTotalBytes (o : Output) : (s.emit o).txTotalBytes = s.txTotalBytes := rfl
@[simp] theorem State.emit_mValid (o : Output) : (s.emit o).mValid = s.mValid := rfl
@[simp] theorem State.emit_mTotalBytes (o : Output) : (s.emit o).mTotalBytes = s.mTotalBytes := rfl
@[simp] theorem State.emit_mElapsedMs (o : Output) : (s.emit o).mElapsedMs = s.mElapsedMs := rfl
@[simp] theorem State.emit_mIndeterminate (o : Output) : (s.emit o).mIndeterminate = s.mIndeterminate := rfl
@[simp] theorem State.emit_mRate (o : Output) : (s.emit o).mRate = s.mRate := rfl
@[simp] theorem State.emit_inflight (o : Output) : (s.emit o).inflight = s.inflight := rfl
@[simp] theorem State.emit_port (o : Output) : (s.emit o).port = s.port := rfl
@[simp] theorem State.emit_result (o : Output) : (s.emit o).result = s.result := rfl
@[simp] theorem State.emit_outputs (o : Output) : (s.emit o).outputs = s.outputs ++ [o] := rfl
@[simp] theorem State.emit_draws (o : Output) : (s.emit o).draws = s.draws := rfl

@[simp] theorem State.startRx_channelId (f : InitialParts) : (s.startRx f).channelId = s.channelId := rfl
@[simp] theorem State.startRx_rx (f : InitialParts) : (s.startRx f).rx = some ⟨f.channel, f.command, f.declaredLen, BitVec.ofNat 16 f.chunk.length, 0⟩ := rfl
@[simp] theorem State.startRx_acc (f : InitialParts) : (s.startRx f).acc = Memory.writeBytes [] 0 f.chunk := rfl
@[simp] theorem State.startRx_txStatus (f : InitialParts) : (s.startRx f).txStatus = s.txStatus := rfl
@[simp] theorem State.startRx_txFifo (f : InitialParts) : (s.startRx f).txFifo = s.txFifo := rfl
@[simp] theorem State.startRx_txSubmitted (f : InitialParts) : (s.startRx f).txSubmitted = s.txSubmitted := rfl
@[simp] theorem State.startRx_txAcked (f : InitialParts) : (s.startRx f).txAcked = s.txAcked := rfl
@[simp] theorem State.startRx_txStartTs (f : InitialParts) : (s.startRx f).txStartTs = s.txStartTs := rfl
@[simp] theorem State.startRx_txTotalBytes (f : InitialParts) : (s.startRx f).txTotalBytes = s.txTotalBytes := rfl
@[simp] theorem State.startRx_mValid (f : InitialParts) : (s.startRx f).mValid = s.mValid := rfl
@[simp] theorem State.startRx_mTotalBytes (f : InitialParts) : (s.startRx f).mTotalBytes = s.mTotalBytes := rfl
@[simp] theorem State.startRx_mElapsedMs (f : InitialParts) : (s.startRx f).mElapsedMs = s.mElapsedMs := rfl
@[simp] theorem State.startRx_mIndeterminate (f : InitialParts) : (s.startRx f).mIndeterminate = s.mIndeterminate := rfl
@[simp] theorem State.startRx_mRate (f : InitialParts) : (s.startRx f).mRate = s.mRate := rfl
@[simp] theorem State.startRx_inflight (f : InitialParts) : (s.startRx f).inflight = s.inflight := rfl
@[simp] theorem State.startRx_port (f : InitialParts) : (s.startRx f).port = s.port := rfl
@[simp] theorem State.startRx_result (f : InitialParts) : (s.startRx f).result = s.result := rfl
@[simp] theorem State.startRx_outputs (f : InitialParts) : (s.startRx f).outputs = s.outputs := rfl
@[simp] theorem State.startRx_draws (f : InitialParts) : (s.startRx f).draws = s.draws := rfl

@[simp] theorem State.appendRx_channelId (a : Accumulator) (x : Bytes) : (s.appendRx a x).channelId = s.channelId := rfl
@[simp] theorem State.appendRx_rx (a : Accumulator) (x : Bytes) : (s.appendRx a x).rx = some ⟨a.channel, a.command, a.declaredLen, BitVec.ofNat 16 (a.fill.toNat + x.length), a.expectedSeq + 1⟩ := rfl
@[simp] theorem State.appendRx_acc (a : Accumulator) (x : Bytes) : (s.appendRx a x).acc = Memory.writeBytes s.acc a.fill.toNat x := rfl
@[simp] theorem State.appendRx_txStatus (a : Accumulator) (x : Bytes) : (s.appendRx a x).txStatus = s.txStatus := rfl
@[simp] theorem State.appendRx_txFifo (a : Accumulator) (x : Bytes) : (s.appendRx a x).txFifo = s.txFifo := rfl
@[simp] theorem State.appendRx_txSubmitted (a : Accumulator) (x : Bytes) : (s.appendRx a x).txSubmitted = s.txSubmitted := rfl
@[simp] theorem State.appendRx_txAcked (a : Accumulator) (x : Bytes) : (s.appendRx a x).txAcked = s.txAcked := rfl
@[simp] theorem State.appendRx_txStartTs (a : Accumulator) (x : Bytes) : (s.appendRx a x).txStartTs = s.txStartTs := rfl
@[simp] theorem State.appendRx_txTotalBytes (a : Accumulator) (x : Bytes) : (s.appendRx a x).txTotalBytes = s.txTotalBytes := rfl
@[simp] theorem State.appendRx_mValid (a : Accumulator) (x : Bytes) : (s.appendRx a x).mValid = s.mValid := rfl
@[simp] theorem State.appendRx_mTotalBytes (a : Accumulator) (x : Bytes) : (s.appendRx a x).mTotalBytes = s.mTotalBytes := rfl
@[simp] theorem State.appendRx_mElapsedMs (a : Accumulator) (x : Bytes) : (s.appendRx a x).mElapsedMs = s.mElapsedMs := rfl
@[simp] theorem State.appendRx_mIndeterminate (a : Accumulator) (x : Bytes) : (s.appendRx a x).mIndeterminate = s.mIndeterminate := rfl
@[simp] theorem State.appendRx_mRate (a : Accumulator) (x : Bytes) : (s.appendRx a x).mRate = s.mRate := rfl
@[simp] theorem State.appendRx_inflight (a : Accumulator) (x : Bytes) : (s.appendRx a x).inflight = s.inflight := rfl
@[simp] theorem State.appendRx_port (a : Accumulator) (x : Bytes) : (s.appendRx a x).port = s.port := rfl
@[simp] theorem State.appendRx_result (a : Accumulator) (x : Bytes) : (s.appendRx a x).result = s.result := rfl
@[simp] theorem State.appendRx_outputs (a : Accumulator) (x : Bytes) : (s.appendRx a x).outputs = s.outputs := rfl
@[simp] theorem State.appendRx_draws (a : Accumulator) (x : Bytes) : (s.appendRx a x).draws = s.draws := rfl

@[simp] theorem State.discardRx_channelId : (s.discardRx).channelId = s.channelId := rfl
@[simp] theorem State.discardRx_rx : (s.discardRx).rx = none := rfl
@[simp] theorem State.discardRx_acc : (s.discardRx).acc = [] := rfl
@[simp] theorem State.discardRx_txStatus : (s.discardRx).txStatus = s.txStatus := rfl
@[simp] theorem State.discardRx_txFifo : (s.discardRx).txFifo = s.txFifo := rfl
@[simp] theorem State.discardRx_txSubmitted : (s.discardRx).txSubmitted = s.txSubmitted := rfl
@[simp] theorem State.discardRx_txAcked : (s.discardRx).txAcked = s.txAcked := rfl
@[simp] theorem State.discardRx_txStartTs : (s.discardRx).txStartTs = s.txStartTs := rfl
@[simp] theorem State.discardRx_txTotalBytes : (s.discardRx).txTotalBytes = s.txTotalBytes := rfl
@[simp] theorem State.discardRx_mValid : (s.discardRx).mValid = s.mValid := rfl
@[simp] theorem State.discardRx_mTotalBytes : (s.discardRx).mTotalBytes = s.mTotalBytes := rfl
@[simp] theorem State.discardRx_mElapsedMs : (s.discardRx).mElapsedMs = s.mElapsedMs := rfl
@[simp] theorem State.discardRx_mIndeterminate : (s.discardRx).mIndeterminate = s.mIndeterminate := rfl
@[simp] theorem State.discardRx_mRate : (s.discardRx).mRate = s.mRate := rfl
@[simp] theorem State.discardRx_inflight : (s.discardRx).inflight = s.inflight := rfl
@[simp] theorem State.discardRx_port : (s.discardRx).port = s.port := rfl
@[simp] theorem State.discardRx_result : (s.discardRx).result = s.result := rfl
@[simp] theorem State.discardRx_outputs : (s.discardRx).outputs = s.outputs := rfl
@[simp] theorem State.discardRx_draws : (s.discardRx).draws = s.draws := rfl

@[simp] theorem State.loadSession_channelId (fs : List Bytes) (b : BitVec 16) (now : BitVec 32) : (s.loadSession fs b now).channelId = s.channelId := rfl
@[simp] theorem State.loadSession_rx (fs : List Bytes) (b : BitVec 16) (now : BitVec 32) : (s.loadSession fs b now).rx = s.rx := rfl
@[simp] theorem State.loadSession_acc (fs : List Bytes) (b : BitVec 16) (now : BitVec 32) : (s.loadSession fs b now).acc = s.acc := rfl
@[simp] theorem State.loadSession_txStatus (fs : List Bytes) (b : BitVec 16) (now : BitVec 32) : (s.loadSession fs b now).txStatus = .pending := rfl
@[simp] theorem State.loadSession_txFifo (fs : List Bytes) (b : BitVec 16) (now : BitVec 32) : (s.loadSession fs b now).txFifo = fs := rfl
@[simp] theorem State.loadSession_txSubmitted (fs : List Bytes) (b : BitVec 16) (now : BitVec 32) : (s.loadSession fs b now).txSubmitted = BitVec.ofNat 8 fs.length := rfl
@[simp] theorem State.loadSession_txAcked (fs : List Bytes) (b : BitVec 16) (now : BitVec 32) : (s.loadSession fs b now).txAcked = 0 := rfl
@[simp] theorem State.loadSession_txStartTs (fs : List Bytes) (b : BitVec 16) (now : BitVec 32) : (s.loadSession fs b now).txStartTs = now := rfl
@[simp] theorem State.loadSession_txTotalBytes (fs : List Bytes) (b : BitVec 16) (now : BitVec 32) : (s.loadSession fs b now).txTotalBytes = b := rfl
@[simp] theorem State.loadSession_mValid (fs : List Bytes) (b : BitVec 16) (now : BitVec 32) : (s.loadSession fs b now).mValid = s.mValid := rfl
@[simp] theorem State.loadSession_mTotalBytes (fs : List Bytes) (b : BitVec 16) (now : BitVec 32) : (s.loadSession fs b now).mTotalBytes = s.mTotalBytes := rfl
@[simp] theorem State.loadSession_mElapsedMs (fs : List Bytes) (b : BitVec 16) (now : BitVec 32) : (s.loadSession fs b now).mElapsedMs = s.mElapsedMs := rfl
@[simp] theorem State.loadSession_mIndeterminate (fs : List Bytes) (b : BitVec 16) (now : BitVec 32) : (s.loadSession fs b now).mIndeterminate = s.mIndeterminate := rfl
@[simp] theorem State.loadSession_mRate (fs : List Bytes) (b : BitVec 16) (now : BitVec 32) : (s.loadSession fs b now).mRate = s.mRate := rfl
@[simp] theorem State.loadSession_inflight (fs : List Bytes) (b : BitVec 16) (now : BitVec 32) : (s.loadSession fs b now).inflight = s.inflight := rfl
@[simp] theorem State.loadSession_port (fs : List Bytes) (b : BitVec 16) (now : BitVec 32) : (s.loadSession fs b now).port = s.port := rfl
@[simp] theorem State.loadSession_result (fs : List Bytes) (b : BitVec 16) (now : BitVec 32) : (s.loadSession fs b now).result = s.result := rfl
@[simp] theorem State.loadSession_outputs (fs : List Bytes) (b : BitVec 16) (now : BitVec 32) : (s.loadSession fs b now).outputs = s.outputs := rfl
@[simp] theorem State.loadSession_draws (fs : List Bytes) (b : BitVec 16) (now : BitVec 32) : (s.loadSession fs b now).draws = s.draws := rfl

@[simp] theorem State.popFrame_channelId (fs : List Bytes) : (s.popFrame fs).channelId = s.channelId := rfl
@[simp] theorem State.popFrame_rx (fs : List Bytes) : (s.popFrame fs).rx = s.rx := rfl
@[simp] theorem State.popFrame_acc (fs : List Bytes) : (s.popFrame fs).acc = s.acc := rfl
@[simp] theorem State.popFrame_txStatus (fs : List Bytes) : (s.popFrame fs).txStatus = s.txStatus := rfl
@[simp] theorem State.popFrame_txFifo (fs : List Bytes) : (s.popFrame fs).txFifo = fs := rfl
@[simp] theorem State.popFrame_txSubmitted (fs : List Bytes) : (s.popFrame fs).txSubmitted = s.txSubmitted := rfl
@[simp] theorem State.popFrame_txAcked (fs : List Bytes) : (s.popFrame fs).txAcked = s.txAcked := rfl
@[simp] theorem State.popFrame_txStartTs (fs : List Bytes) : (s.popFrame fs).txStartTs = s.txStartTs := rfl
@[simp] theorem State.popFrame_txTotalBytes (fs : List Bytes) : (s.popFrame fs).txTotalBytes = s.txTotalBytes := rfl
@[simp] theorem State.popFrame_mValid (fs : List Bytes) : (s.popFrame fs).mValid = s.mValid := rfl
@[simp] theorem State.popFrame_mTotalBytes (fs : List Bytes) : (s.popFrame fs).mTotalBytes = s.mTotalBytes := rfl
@[simp] theorem State.popFrame_mElapsedMs (fs : List Bytes) : (s.popFrame fs).mElapsedMs = s.mElapsedMs := rfl
@[simp] theorem State.popFrame_mIndeterminate (fs : List Bytes) : (s.popFrame fs).mIndeterminate = s.mIndeterminate := rfl
@[simp] theorem State.popFrame_mRate (fs : List Bytes) : (s.popFrame fs).mRate = s.mRate := rfl
@[simp] theorem State.popFrame_inflight (fs : List Bytes) : (s.popFrame fs).inflight = s.inflight ++ [BitVec.ofNat 8 s.handed] := rfl
@[simp] theorem State.popFrame_port (fs : List Bytes) : (s.popFrame fs).port = s.port := rfl
@[simp] theorem State.popFrame_result (fs : List Bytes) : (s.popFrame fs).result = s.result := rfl
@[simp] theorem State.popFrame_outputs (fs : List Bytes) : (s.popFrame fs).outputs = s.outputs := rfl
@[simp] theorem State.popFrame_draws (fs : List Bytes) : (s.popFrame fs).draws = s.draws := rfl

@[simp] theorem State.delivered_channelId (x : BitVec 8) : (s.delivered x).channelId = s.channelId := rfl
@[simp] theorem State.delivered_rx (x : BitVec 8) : (s.delivered x).rx = s.rx := rfl
@[simp] theorem State.delivered_acc (x : BitVec 8) : (s.delivered x).acc = s.acc := rfl
@[simp] theorem State.delivered_txStatus (x : BitVec 8) : (s.delivered x).txStatus = s.txStatus := rfl
@[simp] theorem State.delivered_txFifo (x : BitVec 8) : (s.delivered x).txFifo = s.txFifo := rfl
@[simp] theorem State.delivered_txSubmitted (x : BitVec 8) : (s.delivered x).txSubmitted = s.txSubmitted := rfl
@[simp] theorem State.delivered_txAcked (x : BitVec 8) : (s.delivered x).txAcked = s.txAcked := rfl
@[simp] theorem State.delivered_txStartTs (x : BitVec 8) : (s.delivered x).txStartTs = s.txStartTs := rfl
@[simp] theorem State.delivered_txTotalBytes (x : BitVec 8) : (s.delivered x).txTotalBytes = s.txTotalBytes := rfl
@[simp] theorem State.delivered_mValid (x : BitVec 8) : (s.delivered x).mValid = s.mValid := rfl
@[simp] theorem State.delivered_mTotalBytes (x : BitVec 8) : (s.delivered x).mTotalBytes = s.mTotalBytes := rfl
@[simp] theorem State.delivered_mElapsedMs (x : BitVec 8) : (s.delivered x).mElapsedMs = s.mElapsedMs := rfl
@[simp] theorem State.delivered_mIndeterminate (x : BitVec 8) : (s.delivered x).mIndeterminate = s.mIndeterminate := rfl
@[simp] theorem State.delivered_mRate (x : BitVec 8) : (s.delivered x).mRate = s.mRate := rfl
@[simp] theorem State.delivered_inflight (x : BitVec 8) : (s.delivered x).inflight = s.inflight.erase x := rfl
@[simp] theorem State.delivered_port (x : BitVec 8) : (s.delivered x).port = s.port := rfl
@[simp] theorem State.delivered_result (x : BitVec 8) : (s.delivered x).result = s.result := rfl
@[simp] theorem State.delivered_outputs (x : BitVec 8) : (s.delivered x).outputs = s.outputs := rfl
@[simp] theorem State.delivered_draws (x : BitVec 8) : (s.delivered x).draws = s.draws := rfl

@[simp] theorem State.countAck_channelId : (s.countAck).channelId = s.channelId := rfl
@[simp] theorem State.countAck_rx : (s.countAck).rx = s.rx := rfl
@[simp] theorem State.countAck_acc : (s.countAck).acc = s.acc := rfl
@[simp] theorem State.countAck_txStatus : (s.countAck).txStatus = s.txStatus := rfl
@[simp] theorem State.countAck_txFifo : (s.countAck).txFifo = s.txFifo := rfl
@[simp] theorem State.countAck_txSubmitted : (s.countAck).txSubmitted = s.txSubmitted := rfl
@[simp] theorem State.countAck_txAcked : (s.countAck).txAcked = s.txAcked + 1 := rfl
@[simp] theorem State.countAck_txStartTs : (s.countAck).txStartTs = s.txStartTs := rfl
@[simp] theorem State.countAck_txTotalBytes : (s.countAck).txTotalBytes = s.txTotalBytes := rfl
@[simp] theorem State.countAck_mValid : (s.countAck).mValid = s.mValid := rfl
@[simp] theorem State.countAck_mTotalBytes : (s.countAck).mTotalBytes = s.mTotalBytes := rfl
@[simp] theorem State.countAck_mElapsedMs : (s.countAck).mElapsedMs = s.mElapsedMs := rfl
@[simp] theorem State.countAck_mIndeterminate : (s.countAck).mIndeterminate = s.mIndeterminate := rfl
@[simp] theorem State.countAck_mRate : (s.countAck).mRate = s.mRate := rfl
@[simp] theorem State.countAck_inflight : (s.countAck).inflight = s.inflight := rfl
@[simp] theorem State.countAck_port : (s.countAck).port = s.port := rfl
@[simp] theorem State.countAck_result : (s.countAck).result = s.result := rfl
@[simp] theorem State.countAck_outputs : (s.countAck).outputs = s.outputs := rfl
@[simp] theorem State.countAck_draws : (s.countAck).draws = s.draws := rfl

@[simp] theorem State.failSession_channelId : (s.failSession).channelId = s.channelId := rfl
@[simp] theorem State.failSession_rx : (s.failSession).rx = s.rx := rfl
@[simp] theorem State.failSession_acc : (s.failSession).acc = s.acc := rfl
@[simp] theorem State.failSession_txStatus : (s.failSession).txStatus = .failed := rfl
@[simp] theorem State.failSession_txFifo : (s.failSession).txFifo = [] := rfl
@[simp] theorem State.failSession_txSubmitted : (s.failSession).txSubmitted = s.txSubmitted := rfl
@[simp] theorem State.failSession_txAcked : (s.failSession).txAcked = s.txAcked := rfl
@[simp] theorem State.failSession_txStartTs : (s.failSession).txStartTs = s.txStartTs := rfl
@[simp] theorem State.failSession_txTotalBytes : (s.failSession).txTotalBytes = s.txTotalBytes := rfl
@[simp] theorem State.failSession_mValid : (s.failSession).mValid = s.mValid := rfl
@[simp] theorem State.failSession_mTotalBytes : (s.failSession).mTotalBytes = s.mTotalBytes := rfl
@[simp] theorem State.failSession_mElapsedMs : (s.failSession).mElapsedMs = s.mElapsedMs := rfl
@[simp] theorem State.failSession_mIndeterminate : (s.failSession).mIndeterminate = s.mIndeterminate := rfl
@[simp] theorem State.failSession_mRate : (s.failSession).mRate = s.mRate := rfl
@[simp] theorem State.failSession_inflight : (s.failSession).inflight = s.inflight := rfl
@[simp] theorem State.failSession_port : (s.failSession).port = s.port := rfl
@[simp] theorem State.failSession_result : (s.failSession).result = s.result := rfl
@[simp] theorem State.failSession_outputs : (s.failSession).outputs = s.outputs := rfl
@[simp] theorem State.failSession_draws : (s.failSession).draws = s.draws := rfl

@[simp] theorem State.completeSession_channelId (m : MeterResult) : (s.completeSession m).channelId = s.channelId := rfl
@[simp] theorem State.completeSession_rx (m : MeterResult) : (s.completeSession m).rx = s.rx := rfl
@[simp] theorem State.completeSession_acc (m : MeterResult) : (s.completeSession m).acc = s.acc := rfl
@[simp] theorem State.completeSession_txStatus (m : MeterResult) : (s.completeSession m).txStatus = .completed := rfl
@[simp] theorem State.completeSession_txFifo (m : MeterResult) : (s.completeSession m).txFifo = s.txFifo := rfl
@[simp] theorem State.completeSession_txSubmitted (m : MeterResult) : (s.completeSession m).txSubmitted = s.txSubmitted := rfl
@[simp] theorem State.completeSession_txAcked (m : MeterResult) : (s.completeSession m).txAcked = s.txAcked := rfl
@[simp] theorem State.completeSession_txStartTs (m : MeterResult) : (s.completeSession m).txStartTs = s.txStartTs := rfl
@[simp] theorem State.completeSession_txTotalBytes (m : MeterResult) : (s.completeSession m).txTotalBytes = s.txTotalBytes := rfl
@[simp] theorem State.completeSession_mValid (m : MeterResult) : (s.completeSession m).mValid = true := rfl
@[simp] theorem State.completeSession_mTotalBytes (m : MeterResult) : (s.completeSession m).mTotalBytes = some s.txTotalBytes := rfl
@[simp] theorem State.completeSession_mElapsedMs (m : MeterResult) : (s.completeSession m).mElapsedMs = some m.elapsedMs := rfl
@[simp] theorem State.completeSession_mIndeterminate (m : MeterResult) : (s.completeSession m).mIndeterminate = some m.indeterminate := rfl
@[simp] theorem State.completeSession_mRate (m : MeterResult) : (s.completeSession m).mRate = m.rate := rfl
@[simp] theorem State.completeSession_inflight (m : MeterResult) : (s.completeSession m).inflight = s.inflight := rfl
@[simp] theorem State.completeSession_port (m : MeterResult) : (s.completeSession m).port = s.port := rfl
@[simp] theorem State.completeSession_result (m : MeterResult) : (s.completeSession m).result = s.result := rfl
@[simp] theorem State.completeSession_outputs (m : MeterResult) : (s.completeSession m).outputs = s.outputs := rfl
@[simp] theorem State.completeSession_draws (m : MeterResult) : (s.completeSession m).draws = s.draws := rfl

@[simp] theorem State.setChannel_channelId (c : ChannelId) : (s.setChannel c).channelId = c := rfl
@[simp] theorem State.setChannel_rx (c : ChannelId) : (s.setChannel c).rx = s.rx := rfl
@[simp] theorem State.setChannel_acc (c : ChannelId) : (s.setChannel c).acc = s.acc := rfl
@[simp] theorem State.setChannel_txStatus (c : ChannelId) : (s.setChannel c).txStatus = s.txStatus := rfl
@[simp] theorem State.setChannel_txFifo (c : ChannelId) : (s.setChannel c).txFifo = s.txFifo := rfl
@[simp] theorem State.setChannel_txSubmitted (c : ChannelId) : (s.setChannel c).txSubmitted = s.txSubmitted := rfl
@[simp] theorem State.setChannel_txAcked (c : ChannelId) : (s.setChannel c).txAcked = s.txAcked := rfl
@[simp] theorem State.setChannel_txStartTs (c : ChannelId) : (s.setChannel c).txStartTs = s.txStartTs := rfl
@[simp] theorem State.setChannel_txTotalBytes (c : ChannelId) : (s.setChannel c).txTotalBytes = s.txTotalBytes := rfl
@[simp] theorem State.setChannel_mValid (c : ChannelId) : (s.setChannel c).mValid = s.mValid := rfl
@[simp] theorem State.setChannel_mTotalBytes (c : ChannelId) : (s.setChannel c).mTotalBytes = s.mTotalBytes := rfl
@[simp] theorem State.setChannel_mElapsedMs (c : ChannelId) : (s.setChannel c).mElapsedMs = s.mElapsedMs := rfl
@[simp] theorem State.setChannel_mIndeterminate (c : ChannelId) : (s.setChannel c).mIndeterminate = s.mIndeterminate := rfl
@[simp] theorem State.setChannel_mRate (c : ChannelId) : (s.setChannel c).mRate = s.mRate := rfl
@[simp] theorem State.setChannel_inflight (c : ChannelId) : (s.setChannel c).inflight = s.inflight := rfl
@[simp] theorem State.setChannel_port (c : ChannelId) : (s.setChannel c).port = s.port := rfl
@[simp] theorem State.setChannel_result (c : ChannelId) : (s.setChannel c).result = s.result := rfl
@[simp] theorem State.setChannel_outputs (c : ChannelId) : (s.setChannel c).outputs = s.outputs := rfl
@[simp] theorem State.setChannel_draws (c : ChannelId) : (s.setChannel c).draws = s.draws := rfl

@[simp] theorem State.setPort_channelId (p : List Presented) : (s.setPort p).channelId = s.channelId := rfl
@[simp] theorem State.setPort_rx (p : List Presented) : (s.setPort p).rx = s.rx := rfl
@[simp] theorem State.setPort_acc (p : List Presented) : (s.setPort p).acc = s.acc := rfl
@[simp] theorem State.setPort_txStatus (p : List Presented) : (s.setPort p).txStatus = s.txStatus := rfl
@[simp] theorem State.setPort_txFifo (p : List Presented) : (s.setPort p).txFifo = s.txFifo := rfl
@[simp] theorem State.setPort_txSubmitted (p : List Presented) : (s.setPort p).txSubmitted = s.txSubmitted := rfl
@[simp] theorem State.setPort_txAcked (p : List Presented) : (s.setPort p).txAcked = s.txAcked := rfl
@[simp] theorem State.setPort_txStartTs (p : List Presented) : (s.setPort p).txStartTs = s.txStartTs := rfl
@[simp] theorem State.setPort_txTotalBytes (p : List Presented) : (s.setPort p).txTotalBytes = s.txTotalBytes := rfl
@[simp] theorem State.setPort_mValid (p : List Presented) : (s.setPort p).mValid = s.mValid := rfl
@[simp] theorem State.setPort_mTotalBytes (p : List Presented) : (s.setPort p).mTotalBytes = s.mTotalBytes := rfl
@[simp] theorem State.setPort_mElapsedMs (p : List Presented) : (s.setPort p).mElapsedMs = s.mElapsedMs := rfl
@[simp] theorem State.setPort_mIndeterminate (p : List Presented) : (s.setPort p).mIndeterminate = s.mIndeterminate := rfl
@[simp] theorem State.setPort_mRate (p : List Presented) : (s.setPort p).mRate = s.mRate := rfl
@[simp] theorem State.setPort_inflight (p : List Presented) : (s.setPort p).inflight = s.inflight := rfl
@[simp] theorem State.setPort_port (p : List Presented) : (s.setPort p).port = p := rfl
@[simp] theorem State.setPort_result (p : List Presented) : (s.setPort p).result = s.result := rfl
@[simp] theorem State.setPort_outputs (p : List Presented) : (s.setPort p).outputs = s.outputs := rfl
@[simp] theorem State.setPort_draws (p : List Presented) : (s.setPort p).draws = s.draws := rfl

@[simp] theorem State.drawn_channelId : (s.drawn).channelId = s.channelId := rfl
@[simp] theorem State.drawn_rx : (s.drawn).rx = s.rx := rfl
@[simp] theorem State.drawn_acc : (s.drawn).acc = s.acc := rfl
@[simp] theorem State.drawn_txStatus : (s.drawn).txStatus = s.txStatus := rfl
@[simp] theorem State.drawn_txFifo : (s.drawn).txFifo = s.txFifo := rfl
@[simp] theorem State.drawn_txSubmitted : (s.drawn).txSubmitted = s.txSubmitted := rfl
@[simp] theorem State.drawn_txAcked : (s.drawn).txAcked = s.txAcked := rfl
@[simp] theorem State.drawn_txStartTs : (s.drawn).txStartTs = s.txStartTs := rfl
@[simp] theorem State.drawn_txTotalBytes : (s.drawn).txTotalBytes = s.txTotalBytes := rfl
@[simp] theorem State.drawn_mValid : (s.drawn).mValid = s.mValid := rfl
@[simp] theorem State.drawn_mTotalBytes : (s.drawn).mTotalBytes = s.mTotalBytes := rfl
@[simp] theorem State.drawn_mElapsedMs : (s.drawn).mElapsedMs = s.mElapsedMs := rfl
@[simp] theorem State.drawn_mIndeterminate : (s.drawn).mIndeterminate = s.mIndeterminate := rfl
@[simp] theorem State.drawn_mRate : (s.drawn).mRate = s.mRate := rfl
@[simp] theorem State.drawn_inflight : (s.drawn).inflight = s.inflight := rfl
@[simp] theorem State.drawn_port : (s.drawn).port = s.port := rfl
@[simp] theorem State.drawn_result : (s.drawn).result = s.result := rfl
@[simp] theorem State.drawn_outputs : (s.drawn).outputs = s.outputs := rfl
@[simp] theorem State.drawn_draws : (s.drawn).draws = s.draws + 1 := rfl

@[simp] theorem State.resetBlock_channelId : (s.resetBlock).channelId = State.reset.channelId := rfl
@[simp] theorem State.resetBlock_rx : (s.resetBlock).rx = State.reset.rx := rfl
@[simp] theorem State.resetBlock_acc : (s.resetBlock).acc = State.reset.acc := rfl
@[simp] theorem State.resetBlock_txStatus : (s.resetBlock).txStatus = State.reset.txStatus := rfl
@[simp] theorem State.resetBlock_txFifo : (s.resetBlock).txFifo = State.reset.txFifo := rfl
@[simp] theorem State.resetBlock_txSubmitted : (s.resetBlock).txSubmitted = State.reset.txSubmitted := rfl
@[simp] theorem State.resetBlock_txAcked : (s.resetBlock).txAcked = State.reset.txAcked := rfl
@[simp] theorem State.resetBlock_txStartTs : (s.resetBlock).txStartTs = State.reset.txStartTs := rfl
@[simp] theorem State.resetBlock_txTotalBytes : (s.resetBlock).txTotalBytes = State.reset.txTotalBytes := rfl
@[simp] theorem State.resetBlock_mValid : (s.resetBlock).mValid = State.reset.mValid := rfl
@[simp] theorem State.resetBlock_mTotalBytes : (s.resetBlock).mTotalBytes = State.reset.mTotalBytes := rfl
@[simp] theorem State.resetBlock_mElapsedMs : (s.resetBlock).mElapsedMs = State.reset.mElapsedMs := rfl
@[simp] theorem State.resetBlock_mIndeterminate : (s.resetBlock).mIndeterminate = State.reset.mIndeterminate := rfl
@[simp] theorem State.resetBlock_mRate : (s.resetBlock).mRate = State.reset.mRate := rfl
@[simp] theorem State.resetBlock_inflight : (s.resetBlock).inflight = s.inflight := rfl
@[simp] theorem State.resetBlock_port : (s.resetBlock).port = s.port := rfl
@[simp] theorem State.resetBlock_result : (s.resetBlock).result = s.result := rfl
@[simp] theorem State.resetBlock_outputs : (s.resetBlock).outputs = s.outputs := rfl
@[simp] theorem State.resetBlock_draws : (s.resetBlock).draws = s.draws := rfl

@[simp] theorem State.reset_channelId : State.reset.channelId = Config.channelReset := rfl
@[simp] theorem State.reset_rx : State.reset.rx = none := rfl
@[simp] theorem State.reset_acc : State.reset.acc = [] := rfl
@[simp] theorem State.reset_txStatus : State.reset.txStatus = .idle := rfl
@[simp] theorem State.reset_txFifo : State.reset.txFifo = [] := rfl
@[simp] theorem State.reset_txSubmitted : State.reset.txSubmitted = 0 := rfl
@[simp] theorem State.reset_txAcked : State.reset.txAcked = 0 := rfl
@[simp] theorem State.reset_txStartTs : State.reset.txStartTs = 0 := rfl
@[simp] theorem State.reset_txTotalBytes : State.reset.txTotalBytes = 0 := rfl
@[simp] theorem State.reset_mValid : State.reset.mValid = false := rfl
@[simp] theorem State.reset_mTotalBytes : State.reset.mTotalBytes = none := rfl
@[simp] theorem State.reset_mElapsedMs : State.reset.mElapsedMs = none := rfl
@[simp] theorem State.reset_mIndeterminate : State.reset.mIndeterminate = none := rfl
@[simp] theorem State.reset_mRate : State.reset.mRate = none := rfl
@[simp] theorem State.reset_inflight : State.reset.inflight = [] := rfl
@[simp] theorem State.reset_port : State.reset.port = [] := rfl
@[simp] theorem State.reset_result : State.reset.result = .nothing := rfl
@[simp] theorem State.reset_outputs : State.reset.outputs = [] := rfl
@[simp] theorem State.reset_draws : State.reset.draws = 0 := rfl

end Sys2Proof.Machine
end

