-- ==== Sys2Proof/Laws/Exec.lean ====
section
/-! SUPPORT. What each shared operation can do, said once: receiving a buffer, abandoning a partial message, beginning a
session, a confirmation, a run of operations. -/

namespace Sys2Proof.Machine

/-- A run of two lists one after the other goes on where the first ended. -/
theorem runOps_append (is js : List Instr) (s t : State) (h : runOps is s = .next t) :
    runOps (is ++ js) s = runOps js t := by
  induction is generalizing s with
  | nil => simp [runOps] at h; subst h; rfl
  | cons i is ih =>
    simp only [runOps, List.cons_append] at h ⊢
    split at h
    · next u hu => exact ih u h
    · simp at h
    · simp at h

/-! The reassembler. -/

theorem receive_initialFrame (s : State) (ch : ChannelId) (c : Byte) (len : BitVec 16) (x : Bytes) (h : s.rx = none) :
    receive (initialFrame ch c len x) s =
      if len.toNat ≤ x.length then finish .done (s.emit (.messageReceived ch c (x.take len.toNat)))
      else finish .done (s.startRx ⟨ch, c, len, x⟩) := by
  simp [receive, h, receiveInitial, parseInitial_frame]

theorem receive_continuationFrame (s : State) (a : Accumulator) (ch : ChannelId) (q : Byte) (x : Bytes)
    (h : s.rx = some a) :
    receive (continuationFrame ch q x) s =
      if ch ≠ a.channel then raise .channelMismatch s.discardRx
      else if a.expectedSeq = 128#8 ∨ q ≠ a.expectedSeq then raise .outOfOrderFrame s.discardRx
      else if a.declaredLen.toNat < a.fill.toNat + x.length then raise .overlongMessage s.discardRx
      else if a.fill.toNat + x.length = a.declaredLen.toNat then
        finish .done ((s.emit (.messageReceived a.channel a.command (s.rxBuf a ++ x))).discardRx)
      else finish .done (s.appendRx a x) := by
  by_cases hc : ch = a.channel
  · simp [receive, h, receiveContinuation, parseContinuation_frame, hc]
  · simp [receive, h, receiveContinuation, parseContinuation_frame, hc]

/-- Whatever shape a buffer on the wire is labelled with, its arrival is one notification of its bytes (20_memory.md R73). -/
theorem exec_decodeWire (shape : WireShape) (b : Bytes) (s : State) : exec (decodeWire shape b) s = receive b s := by
  unfold decodeWire
  split
  · simp [exec, execFrameInitial, initialFrame, ChannelId.bytes, be16_ube16]
  · rfl
  · rfl
  · rfl
  · split_ifs with h
    · simp only [exec, execInfoReport, h]
    · rfl
  · rfl

theorem receive_short_none (s : State) (b : Bytes) (h : s.rx = none) (hl : b.length < 7) :
    receive b s = raise .frameTooShort s := by
  simp [receive, h, receiveInitial, parseInitial_short _ _ hl]

theorem receive_short_some (s : State) (a : Accumulator) (b : Bytes) (h : s.rx = some a) (hl : b.length < 5) :
    receive b s = raise .frameTooShort s.discardRx := by
  simp [receive, h, receiveContinuation, parseContinuation_short _ _ hl]

/-- Everything one received buffer can do (42_inbound_reassembler.md R166). -/
inductive ReceiveStep (s : State) : State → Prop where
  | error (e : BlockError) (hs : s.rx = none) : ReceiveStep s ((s.emit (.error e)).setResult (.error e))
  | discard (e : BlockError) (hs : s.rx.isSome) : ReceiveStep s ((s.discardRx.emit (.error e)).setResult (.error e))
  | atOnce (ch : ChannelId) (c : Byte) (p : Bytes) (hs : s.rx = none) :
    ReceiveStep s ((s.emit (.messageReceived ch c p)).setResult .done)
  | start (f : InitialParts) (hs : s.rx = none) (hl : f.chunk.length < f.declaredLen.toNat) :
    ReceiveStep s ((s.startRx f).setResult .done)
  | append (a : Accumulator) (x : Bytes) (hs : s.rx = some a) (h128 : a.expectedSeq ≠ 128)
    (hl : a.fill.toNat + x.length < a.declaredLen.toNat) : ReceiveStep s ((s.appendRx a x).setResult .done)
  | complete (a : Accumulator) (x : Bytes) (hs : s.rx = some a) (hl : a.fill.toNat + x.length = a.declaredLen.toNat) :
    ReceiveStep s (((s.emit (.messageReceived a.channel a.command (s.rxBuf a ++ x))).discardRx).setResult .done)

theorem receive_step (b : Bytes) (s : State) : ∃ t, receive b s = .next t ∧ ReceiveStep s t := by
  rcases hrx : s.rx with _ | a
  · by_cases hl : b.length < 7
    · exact ⟨_, receive_short_none s b hrx hl, .error _ hrx⟩
    · obtain ⟨ch, c, len, x, rfl, -⟩ := initialFrame_of_length b (by omega)
      rw [receive_initialFrame _ _ _ _ _ hrx]
      split_ifs with h
      · exact ⟨_, rfl, .atOnce _ _ _ hrx⟩
      · exact ⟨_, rfl, .start _ hrx (by simpa using h)⟩
  · by_cases hl : b.length < 5
    · exact ⟨_, receive_short_some s a b hrx hl, .discard _ (by simp [hrx])⟩
    · obtain ⟨ch, q, x, rfl⟩ := continuationFrame_of_length b (by omega)
      rw [receive_continuationFrame _ _ _ _ _ hrx]
      split_ifs with h1 h2 h3 h4
      · exact ⟨_, rfl, .discard _ (by simp [hrx])⟩
      · exact ⟨_, rfl, .discard _ (by simp [hrx])⟩
      · exact ⟨_, rfl, .discard _ (by simp [hrx])⟩
      · exact ⟨_, rfl, .complete a x hrx h4⟩
      · exact ⟨_, rfl, .append a x hrx (by simp at h2; exact h2.1) (by omega)⟩

/-- Everything `abandonRx` can do (46_link_config_ops.md R250, R251). -/
theorem abandonRx_cases (s t : State) (h : abandonRx s = .next t) :
    (s.rx.isSome ∧ t = (s.discardRx.emit (.error .incompleteMessage)).setResult (.error .incompleteMessage)) ∨
    (s.rx = none ∧ t = s.setResult .done) := by
  unfold abandonRx at h
  split_ifs at h with hr
  · exact .inl ⟨hr, by simpa [raise] using h.symm⟩
  · exact .inr ⟨by simpa [State.rxActive] using hr, by simpa [finish] using h.symm⟩

/-! The sequencer. -/

/-- Everything the start of a session can do (43_outbound_sequencer.md R191, R192). -/
theorem beginSession_cases (fs : List Bytes) (b : BitVec 16) (now : BitVec 32) (s t : State)
    (h : beginSession fs b now s = .next t) :
    (s.txStatus = .pending ∧ t = (s.emit (.error .sessionBusy)).setResult (.error .sessionBusy)) ∨
    (s.txStatus ≠ .pending ∧ t = (s.loadSession fs b now).setResult .done) := by
  unfold beginSession at h
  split_ifs at h with hp
  · exact .inl ⟨hp, by simpa [raise] using h.symm⟩
  · exact .inr ⟨hp, by simpa [finish] using h.symm⟩

/-- Everything a confirmation can do (R198 to R201). -/
inductive ConfirmStep (s : State) (index : BitVec 8) (err : Bool) (now : BitVec 32) : State → Prop where
  | ignored (h : s.counted = false) : ConfirmStep s index err now ((s.delivered index).setResult .done)
  | fails (hp : s.txStatus = .pending) (h : s.counted = true) (he : err = true) :
    ConfirmStep s index err now
      ((((s.delivered index).countAck.failSession).emit (.error (.writeFailed index))).setResult
        (.error (.writeFailed index)))
  | completes (hp : s.txStatus = .pending) (h : s.counted = true) (he : err = false)
    (hl : s.txAcked + 1 = s.txSubmitted) (m : MeterResult) (hm : m = meterOf s.txTotalBytes s.txStartTs now) :
    ConfirmStep s index err now
      ((((s.delivered index).countAck.completeSession m).emit
        (.transferCompleted s.txTotalBytes m.elapsedMs m.indeterminate m.rate)).setResult .done)
  | counts (hp : s.txStatus = .pending ∨ s.txStatus = .failed) (h : s.counted = true) (he : err = false)
    (hl : s.txStatus = .pending → s.txAcked + 1 ≠ s.txSubmitted) :
    ConfirmStep s index err now ((s.delivered index).countAck.setResult .done)
  | late (hp : s.txStatus = .failed) (h : s.counted = true) (he : err = true) :
    ConfirmStep s index err now
      (((s.delivered index).countAck.emit (.error (.writeFailed index))).setResult (.error (.writeFailed index)))

/-- A counted confirmation has a session that was started and not completed. -/
theorem State.status_of_counted (s : State) (h : s.counted = true) : s.txStatus = .pending ∨ s.txStatus = .failed := by
  unfold State.counted at h
  split at h <;> simp_all

theorem execTxConfirm_step (index : BitVec 8) (err : Bool) (now : BitVec 32) (s : State) :
    ∃ t, execTxConfirm index err now s = .next t ∧ ConfirmStep s index err now t := by
  unfold execTxConfirm
  split_ifs with hc
  · have hst := s.status_of_counted hc
    by_cases h1 : (s.delivered index).countAck.txStatus = .pending
    · simp only [afterCount, if_pos h1]
      cases err with
      | true => exact ⟨_, rfl, .fails h1 hc rfl⟩
      | false =>
        by_cases h3 : (s.delivered index).countAck.txAcked = (s.delivered index).countAck.txSubmitted
        · simp only [if_pos h3]
          exact ⟨_, rfl, .completes (s := s) h1 hc rfl h3 _ rfl⟩
        · simp only [if_neg h3]
          exact ⟨_, rfl, .counts hst hc rfl fun _ => h3⟩
    · simp only [afterCount, if_neg h1]
      cases err with
      | true => exact ⟨_, rfl, .late (hst.resolve_left h1) hc rfl⟩
      | false => exact ⟨_, rfl, .counts hst hc rfl fun h => absurd h h1⟩
  · exact ⟨_, rfl, .ignored (by simpa using hc)⟩

/-- The meter's rate is absent exactly when the result is indeterminate, and then no time has passed
(44_bandwidth_meter.md R223). -/
theorem meterOf_spec (b : BitVec 16) (start now : BitVec 32) :
    (meterOf b start now).elapsedMs = now - start ∧
    ((meterOf b start now).rate.isSome ↔ (meterOf b start now).indeterminate = false) ∧
    ((meterOf b start now).indeterminate = true ↔ (meterOf b start now).elapsedMs = 0) := by
  unfold meterOf
  split_ifs with h
  · exact ⟨h.symm, by simp, by simp⟩
  · exact ⟨rfl, by simp, by simpa using h⟩

end Sys2Proof.Machine
end

