-- ==== Sys2Proof/Laws/Memory.lean ====
section
/-! SUPPORT. Space ACC: reading after writing, and that writing keeps the canonical form. -/

namespace Sys2Proof.Machine

@[simp] theorem Memory.read_nil (a : Nat) : Memory.read [] a = none := rfl

/-- A read after a write: the byte written at its address, every other address as before. -/
theorem Memory.read_write (m : Memory) (hm : (m.map Prod.fst).Pairwise (· < ·)) (a x : Nat) (b : Byte) :
    Memory.read (Memory.write m a b) x = if x = a then some b else Memory.read m x := by
  induction m with
  | nil => simp [Memory.write, Memory.read, eq_comm]
  | cons c m ih =>
    have ih := ih (List.pairwise_cons.mp hm).2
    rcases Nat.lt_trichotomy a c.1 with h | h | h
    · rw [Memory.write, if_pos h, Memory.read]
      simp only [eq_comm]
    · rw [Memory.write, if_neg (by omega), if_pos h.symm, Memory.read, Memory.read]
      by_cases hx : a = x
      · rw [if_pos hx, if_pos hx.symm]
      · rw [if_neg hx, if_neg (Ne.symm hx), if_neg (by omega)]
    · rw [Memory.write, if_neg (by omega), if_neg (by omega), Memory.read, Memory.read, ih]
      by_cases hx : c.1 = x
      · rw [if_pos hx, if_pos hx, if_neg (by omega)]
      · rw [if_neg hx, if_neg hx]

/-- The addresses after a write are those before it and the one written. -/
theorem Memory.mem_write (m : Memory) (a : Nat) (b : Byte) (c : Host.Cell) (hc : c ∈ Memory.write m a b) :
    c = (a, b) ∨ c ∈ m := by
  induction m with
  | nil => simpa [Memory.write] using hc
  | cons d m ih =>
    simp only [Memory.write] at hc
    split_ifs at hc
    · simpa using hc
    · simp only [List.mem_cons] at hc ⊢; tauto
    · simp only [List.mem_cons] at hc ⊢
      rcases hc with h | h
      · simp [h]
      · rcases ih h with h | h <;> simp [h]

/-- A write keeps the addresses strictly rising. -/
theorem Memory.write_rising (m : Memory) (hm : (m.map Prod.fst).Pairwise (· < ·)) (a : Nat) (b : Byte) :
    ((Memory.write m a b).map Prod.fst).Pairwise (· < ·) := by
  induction m with
  | nil => simp [Memory.write]
  | cons c m ih =>
    have hm' := hm
    simp only [List.map_cons, List.pairwise_cons] at hm
    simp only [Memory.write]
    split_ifs with h1 h2
    · rw [List.map_cons, List.pairwise_cons]
      refine ⟨fun x hx => ?_, hm'⟩
      rw [List.map_cons, List.mem_cons] at hx
      rcases hx with rfl | hx
      · exact h1
      · exact h1.trans (hm.1 x hx)
    · subst h2; simpa using hm
    · simp only [List.map_cons, List.pairwise_cons, List.mem_map]
      refine ⟨?_, ih hm.2⟩
      rintro x ⟨d, hd, rfl⟩
      rcases Memory.mem_write m a b d hd with rfl | hd
      · show c.1 < a; omega
      · exact hm.1 d.1 (List.mem_map_of_mem hd)

/-- `MemWrite` keeps the addresses strictly rising. -/
theorem Memory.writeBytes_rising (m : Memory) (hm : (m.map Prod.fst).Pairwise (· < ·)) (a : Nat) (bs : Bytes) :
    ((Memory.writeBytes m a bs).map Prod.fst).Pairwise (· < ·) := by
  induction bs generalizing m a with
  | nil => simpa [Memory.writeBytes]
  | cons b bs ih => exact ih _ (Memory.write_rising m hm a b) _

/-- `MemWrite` inside the space keeps the canonical form. -/
theorem Memory.writeBytes_wf (m : Memory) (hm : Memory.wf m) (a : Nat) (bs : Bytes)
    (h : a + bs.length ≤ Config.accCap) : Memory.wf (Memory.writeBytes m a bs) := by
  refine ⟨Memory.writeBytes_rising m hm.1 a bs, ?_⟩
  have key : ∀ (bs : Bytes) (m : Memory) (a : Nat), (∀ c ∈ m, c.1 < Config.accCap) → a + bs.length ≤ Config.accCap →
      ∀ c ∈ Memory.writeBytes m a bs, c.1 < Config.accCap := by
    intro bs
    induction bs with
    | nil => intro m a hm _; simpa [Memory.writeBytes] using hm
    | cons b bs ih =>
      intro m a hm h
      simp only [List.length_cons] at h
      refine ih _ (a + 1) ?_ (by omega)
      intro c hc
      rcases Memory.mem_write m a b c hc with rfl | hc
      · show a < Config.accCap; omega
      · exact hm c hc
  exact key bs m a hm.2 h

/-- A read after `MemWrite`: the bytes written at their addresses, every other address as before. -/
theorem Memory.read_writeBytes (m : Memory) (hm : (m.map Prod.fst).Pairwise (· < ·)) (a : Nat) (bs : Bytes) (x : Nat) :
    Memory.read (Memory.writeBytes m a bs) x =
      if a ≤ x ∧ x < a + bs.length then bs[x - a]? else Memory.read m x := by
  induction bs generalizing m a with
  | nil =>
    rw [if_neg (by simp), Memory.writeBytes]
  | cons b bs ih =>
    rw [Memory.writeBytes, ih _ (Memory.write_rising m hm a b), Memory.read_write m hm]
    by_cases hx : x = a
    · subst hx; simp
    · by_cases h : a + 1 ≤ x ∧ x < a + 1 + bs.length
      · rw [if_pos h, if_pos ⟨by omega, by simp only [List.length_cons]; omega⟩]
        obtain ⟨k, rfl⟩ : ∃ k, x = a + 1 + k := ⟨x - (a + 1), by omega⟩
        have h1 : a + 1 + k - (a + 1) = k := by omega
        have h2 : a + 1 + k - a = k + 1 := by omega
        rw [h1, h2, List.getElem?_cons_succ]
      · rw [if_neg h, if_neg hx, if_neg]
        simp only [List.length_cons]; omega

/-- `MemRead` depends only on the bytes it reads. -/
theorem Memory.readBytes_congr (m m' : Memory) (a n : Nat) (h : ∀ x, a ≤ x → x < a + n → Memory.read m x = Memory.read m' x) :
    Memory.readBytes m a n = Memory.readBytes m' a n := by
  induction n generalizing a with
  | zero => rfl
  | succ n ih =>
    rw [Memory.readBytes, Memory.readBytes, h a (le_refl a) (by omega),
      ih (a + 1) (fun x h1 h2 => h x (by omega) (by omega))]

/-- `MemRead` of two adjacent ranges. -/
theorem Memory.readBytes_add (m : Memory) (a n k : Nat) :
    Memory.readBytes m a (n + k) = Memory.readBytes m a n ++ Memory.readBytes m (a + n) k := by
  induction n generalizing a with
  | zero => simp [Memory.readBytes]
  | succ n ih =>
    rw [Nat.succ_add, Memory.readBytes, ih, Memory.readBytes, List.append_assoc]
    congr 3; omega

/-- `MemRead` of bytes that are all known. -/
theorem Memory.readBytes_of_read (m : Memory) (a : Nat) (bs : Bytes)
    (h : ∀ k, k < bs.length → Memory.read m (a + k) = bs[k]?) : Memory.readBytes m a bs.length = bs := by
  induction bs generalizing a with
  | nil => rfl
  | cons b bs ih =>
    have h0 := h 0 (by simp)
    simp only [Nat.add_zero, List.getElem?_cons_zero] at h0
    rw [List.length_cons, Memory.readBytes, h0, ih (a + 1)]
    · rfl
    · intro k hk
      have := h (k + 1) (by simpa using hk)
      rw [List.getElem?_cons_succ] at this
      rw [← this]; congr 1; omega

/-- `append(X)` (20_memory.md R66): afterwards the buffer is the old one followed by `X`. -/
theorem Memory.readBytes_append (m : Memory) (hm : (m.map Prod.fst).Pairwise (· < ·)) (n : Nat) (bs : Bytes) :
    Memory.readBytes (Memory.writeBytes m n bs) 0 (n + bs.length) = Memory.readBytes m 0 n ++ bs := by
  rw [Memory.readBytes_add]
  congr 1
  · refine Memory.readBytes_congr _ _ _ _ fun x _ h2 => ?_
    rw [Memory.read_writeBytes m hm, if_neg (by omega)]
  · refine Memory.readBytes_of_read _ _ _ fun k hk => ?_
    rw [Memory.read_writeBytes m hm, if_pos (by omega)]
    congr 1; omega

/-- A buffer written to an empty space reads back. -/
theorem Memory.readBytes_fresh (bs : Bytes) : Memory.readBytes (Memory.writeBytes [] 0 bs) 0 bs.length = bs := by
  simpa [Memory.readBytes] using Memory.readBytes_append [] (by simp) 0 bs

/-- Writing just above a full run of addresses extends the run. -/
theorem Memory.write_run (m : Memory) (n : Nat) (b : Byte) (h : ∀ c ∈ m, c.1 < n) :
    Memory.write m n b = m ++ [(n, b)] := by
  induction m with
  | nil => rfl
  | cons c m ih =>
    have hc := h c (by simp)
    rw [Memory.write, if_neg (by omega), if_neg (by omega), ih fun d hd => h d (by simp [hd])]
    rfl

/-- `append(X)` at the fill level: ACC lists exactly the addresses below the new fill level. -/
theorem Memory.writeBytes_run (m : Memory) (n : Nat) (bs : Bytes) (h : m.map Prod.fst = List.range n) :
    (Memory.writeBytes m n bs).map Prod.fst = List.range (n + bs.length) := by
  induction bs generalizing m n with
  | nil => simpa [Memory.writeBytes]
  | cons b bs ih =>
    have hlt : ∀ c ∈ m, c.1 < n := fun c hc => by
      have := List.mem_map_of_mem (f := Prod.fst) hc
      rw [h] at this; simpa using this
    rw [Memory.writeBytes, ih _ (n + 1) (by rw [Memory.write_run m n b hlt, List.map_append, h, List.range_succ]; rfl)]
    simp only [List.length_cons]; congr 1; omega

/-- An address is listed exactly when it holds a byte. -/
theorem Memory.read_isSome (m : Memory) (x : Nat) : (Memory.read m x).isSome ↔ x ∈ m.map Prod.fst := by
  induction m with
  | nil => simp
  | cons c m ih =>
    simp only [Memory.read, List.map_cons, List.mem_cons]
    split_ifs with h
    · simp [h]
    · rw [ih]; constructor
      · exact Or.inr
      · rintro (rfl | h')
        · exact absurd rfl h
        · exact h'

/-- `MemRead` over listed addresses gives one byte for each. -/
theorem Memory.length_readBytes (m : Memory) (a n : Nat) (h : ∀ x, a ≤ x → x < a + n → x ∈ m.map Prod.fst) :
    (Memory.readBytes m a n).length = n := by
  induction n generalizing a with
  | zero => rfl
  | succ n ih =>
    obtain ⟨b, hb⟩ := Option.isSome_iff_exists.mp ((Memory.read_isSome m a).mpr (h a (le_refl a) (by omega)))
    rw [Memory.readBytes, List.length_append, ih (a + 1) fun x h1 h2 => h x (by omega) (by omega), hb]
    simp; omega

end Sys2Proof.Machine
end

