-- ==== Sys2Proof/Laws/PerInstr.lean ====
section
/-! SUPPORT. Per-instruction statements. Family `Code`: a record's first byte holds the operation's code of
30_encoding.md R100 with bits 7..4 zero; a frame on the wire has no code and starts with a channel id. -/

namespace Sys2Proof.Laws.Code

open Sys2Proof.Machine

/-- The bytes of an instruction begin with its operation code, or, for a frame, with four channel bytes. -/
def Statement (i : Instr) : Prop :=
  match operationCode i with
  | some c => ∃ operands, encode i = c.setWidth 8 :: operands
  | none => ∃ (ch : ChannelId) (rest : Bytes), encode i = ch.bytes ++ rest

theorem encode (command : Byte) (payload : Bytes) (mtu : BitVec 16) : Statement (.encode command payload mtu) :=
  ⟨_, rfl⟩
theorem decodeInitial (f : Bytes) (ch : Option ChannelId) : Statement (.decodeInitial f ch) := ⟨_, rfl⟩
theorem decodeCont (f : Bytes) (ch : Option ChannelId) : Statement (.decodeCont f ch) := ⟨_, rfl⟩
theorem rxNotify (b : Bytes) : Statement (.rxNotify b) := ⟨_, rfl⟩
theorem rxTimeout : Statement .rxTimeout := ⟨_, rfl⟩
theorem linkDisconnect : Statement .linkDisconnect := ⟨_, rfl⟩
theorem txStart (fs : List Bytes) (b : BitVec 16) (now : BitVec 32) : Statement (.txStart fs b now) := ⟨_, rfl⟩
theorem txSubmit : Statement .txSubmit := ⟨_, rfl⟩
theorem txConfirm (x : BitVec 8) (e : Bool) (now : BitVec 32) : Statement (.txConfirm x e now) := ⟨_, rfl⟩
theorem meter (b : BitVec 16) (st now : BitVec 32) : Statement (.meter b st now) := ⟨_, rfl⟩
theorem cfgSetChannel (ch : ChannelId) : Statement (.cfgSetChannel ch) := ⟨_, rfl⟩
theorem send (command : Byte) (payload : Bytes) (mtu : BitVec 16) (now : BitVec 32) :
    Statement (.send command payload mtu now) := ⟨_, rfl⟩
theorem reset : Statement .reset := ⟨_, rfl⟩
theorem reserved0 : Statement .reserved0 := ⟨_, rfl⟩
theorem reservedD : Statement .reservedD := ⟨_, rfl⟩
theorem reservedE : Statement .reservedE := ⟨_, rfl⟩
theorem frameInitial (ch : ChannelId) (command : Byte) (len : BitVec 16) (x : Bytes) :
    Statement (.frameInitial ch command len x) := ⟨ch, _, rfl⟩
theorem frameContinuation (ch : ChannelId) (q : Byte) (x : Bytes) : Statement (.frameContinuation ch q x) :=
  ⟨ch, _, rfl⟩
theorem infoReport (ch : ChannelId) : Statement (.infoReport ch) := ⟨ch, _, rfl⟩

end Sys2Proof.Laws.Code
end

