-- ==== Sys2Proof/Tests/Slice0.lean ====
section
/-! SUPPORT. Tests. Expected results are from spec/95_test_vectors.md (S1 to S4, T1 to T120, P1), or from the rule a comment
names; the witnesses show that the hypotheses of each statement can be met. -/

namespace Sys2Proof.Tests

open Sys2Proof Sys2Proof.Machine

/-! Helpers: small states, and what an answer holds. -/

/-- The channel EE EE EE EE. -/
def ee : ChannelId := ⟨0xEE, 0xEE, 0xEE, 0xEE⟩

/-- The channel 01 02 03 04. -/
def c1234 : ChannelId := ⟨1, 2, 3, 4⟩

/-- The state `A10` of the vectors: 5 of 10 bytes received. -/
def a10 : State := { State.reset with
  rx := some ⟨ee, 0x80, 10, 5, 0⟩
  acc := [(0, 1), (1, 2), (2, 3), (3, 4), (4, 5)] }

/-- `a10` at the end of the sequence space. -/
def a10end : State := { a10 with rx := some ⟨ee, 0x80, 10, 5, 128⟩ }

/-- A session of two frames, none handed over. -/
def pending : State := { State.reset with
  txStatus := .pending, txFifo := [[1], [2]], txSubmitted := 2, txStartTs := 5000, txTotalBytes := 30 }

/-- That session with both frames handed over and `n` confirmations counted. -/
def handedOver (n : BitVec 8) : State := { pending with txFifo := [], txAcked := n, inflight := [0, 1] }

/-- A failed session of two frames, `n` confirmations counted. -/
def failed (n : BitVec 8) : State := { pending with txStatus := .failed, txFifo := [], txAcked := n }

/-- The next state, if there is one. -/
def nextOf (a : Answer) : Option State :=
  match a with
  | .next t => some t
  | .fault _ => none
  | .refused _ => none

/-- The result an answer's next state holds. -/
def resultOf (a : Answer) : Option OpResult := (nextOf a).map State.result

/-- The outputs an answer's next state holds. -/
def outputsOf (a : Answer) : Option (List Output) := (nextOf a).map State.outputs

/-- The instruction decoded, if there is one. -/
def instrOf (r : Read Instr) : Option Instr :=
  match r with
  | .ok (i, _) => some i
  | .error _ => none

/-! WellFormed: one ill-formed term for each check. A long byte string is a variable with its length, then a concrete one. -/

theorem longEncode (p : Bytes) (h : p.length = 4294967296) : ¬ Instr.WellFormed (.encode 0x80 p 20) := by
  simp only [Instr.WellFormed, h]; omega
theorem test_wf_encode : ¬ Instr.WellFormed (.encode 0x80 (List.replicate 4294967296 0) 20) :=
  longEncode _ (List.length_replicate (n := 4294967296))
theorem longSend (p : Bytes) (h : p.length = 4294967296) : ¬ Instr.WellFormed (.send 0x80 p 20 0) := by
  simp only [Instr.WellFormed, h]; omega
theorem test_wf_send : ¬ Instr.WellFormed (.send 0x80 (List.replicate 4294967296 0) 20 0) :=
  longSend _ (List.length_replicate (n := 4294967296))
theorem longBuffers (b : Bytes) (h : b.length = 65536) :
    ¬ Instr.WellFormed (.decodeInitial b none) ∧ ¬ Instr.WellFormed (.decodeCont b none) ∧
      ¬ Instr.WellFormed (.rxNotify b) := by
  simp only [Instr.WellFormed, h]; omega
theorem test_wf_decodeInitial : ¬ Instr.WellFormed (.decodeInitial (List.replicate 65536 0) none) :=
  (longBuffers _ (List.length_replicate (n := 65536))).1
theorem test_wf_decodeCont : ¬ Instr.WellFormed (.decodeCont (List.replicate 65536 0) none) :=
  (longBuffers _ (List.length_replicate (n := 65536))).2.1
theorem test_wf_rxNotify : ¬ Instr.WellFormed (.rxNotify (List.replicate 65536 0)) :=
  (longBuffers _ (List.length_replicate (n := 65536))).2.2
theorem test_wf_txStart_empty : ¬ Instr.WellFormed (.txStart [] 0 0) := show ¬ framesInDomain [] by decide
theorem manyFrames (fs : List Bytes) (h : fs.length = 130) : ¬ Instr.WellFormed (.txStart fs 0 0) := fun hw => by
  have := hw.1.2
  rw [h] at this
  exact absurd this (by decide)
theorem test_wf_txStart_many : ¬ Instr.WellFormed (.txStart (List.replicate 130 [0]) 0 0) :=
  manyFrames _ (List.length_replicate (n := 130))
theorem test_wf_txStart_emptyFrame : ¬ Instr.WellFormed (.txStart [[0], []] 0 0) :=
  show ¬ framesInDomain [[0], []] by decide
theorem longFrame (f : Bytes) (h : f.length = 65536) : ¬ Instr.WellFormed (.txStart [f] 0 0) := fun hw => by
  have := (hw.2 f List.mem_cons_self).2
  omega
theorem test_wf_txStart_longFrame : ¬ Instr.WellFormed (.txStart [List.replicate 65536 0] 0 0) :=
  longFrame _ (List.length_replicate (n := 65536))
theorem longInitialChunk (chunk : Bytes) (h : chunk.length = 65529) :
    ¬ Instr.WellFormed (.frameInitial ee 0x80 0 chunk) := by
  simp only [Instr.WellFormed, Config.hdrInit, h]; omega
theorem test_wf_frameInitial : ¬ Instr.WellFormed (.frameInitial ee 0x80 0 (List.replicate 65529 0)) :=
  longInitialChunk _ List.length_replicate
theorem longContinuationChunk (chunk : Bytes) (h : chunk.length = 65531) :
    ¬ Instr.WellFormed (.frameContinuation ee 0 chunk) := by
  simp only [Instr.WellFormed, Config.hdrCont, h]; omega
theorem test_wf_frameContinuation : ¬ Instr.WellFormed (.frameContinuation ee 0 (List.replicate 65531 0)) :=
  longContinuationChunk _ List.length_replicate

/-! Decode: a record or frame written out from R100 (the code in bits 3..0 of the first byte), R91, R92, R93 and the operand
layout of log entries 2 and 3, for every constructor. -/

theorem test_decode_encode :
    instrOf (decode .command [0x01, 0x80, 0x00, 0x14, 0, 0, 0, 2, 0x68, 0x69]) = some (.encode 0x80 [0x68, 0x69] 20) := by
  decide
theorem test_decode_decodeInitial :
    instrOf (decode .command [0x02, 0x01, 1, 2, 3, 4, 0, 2, 0xAA, 0xBB])
      = some (.decodeInitial [0xAA, 0xBB] (some c1234)) := by decide
theorem test_decode_decodeCont :
    instrOf (decode .command [0x03, 0x00, 0, 1, 0xAA]) = some (.decodeCont [0xAA] none) := by decide
theorem test_decode_rxNotify :
    instrOf (decode .command [0x04, 0, 3, 7, 8, 9]) = some (.rxNotify [7, 8, 9]) := by decide
theorem test_decode_rxTimeout : instrOf (decode .command [0x05]) = some .rxTimeout := by decide
theorem test_decode_linkDisconnect : instrOf (decode .command [0x06]) = some .linkDisconnect := by decide
theorem test_decode_txStart :
    instrOf (decode .command [0x07, 0x01, 0x00, 0x1E, 0x00, 0x00, 0x13, 0x88, 0x00, 0x00, 0xAA, 0x00, 0x01, 0xBB, 0xCC])
      = some (.txStart [[0xAA], [0xBB, 0xCC]] 30 5000) := by decide
theorem test_decode_txSubmit : instrOf (decode .command [0x08]) = some .txSubmit := by decide
theorem test_decode_txConfirm :
    instrOf (decode .command [0x09, 0x02, 0x01, 0x00, 0x00, 0x13, 0x9C]) = some (.txConfirm 2 true 5020) := by decide
theorem test_decode_meter :
    instrOf (decode .command [0x0A, 0x10, 0x00, 0, 0, 0, 7, 0, 0, 0x03, 0xEF]) = some (.meter 4096 7 1007) := by decide
theorem test_decode_cfgSetChannel :
    instrOf (decode .command [0x0B, 1, 2, 3, 4]) = some (.cfgSetChannel c1234) := by decide
theorem test_decode_send :
    instrOf (decode .command [0x0C, 0x80, 0x00, 0x14, 0x00, 0x00, 0x03, 0xE8, 0, 0, 0, 2, 0x68, 0x69])
      = some (.send 0x80 [0x68, 0x69] 20 1000) := by decide
theorem test_decode_reset : instrOf (decode .command [0x0F]) = some .reset := by decide
theorem test_decode_reserved :
    instrOf (decode .command [0x00]) = some .reserved0 ∧ instrOf (decode .command [0x0D]) = some .reservedD ∧
      instrOf (decode .command [0x0E]) = some .reservedE := by decide
theorem test_decode_frameInitial :
    instrOf (decode (.wire .initial) [0xEE, 0xEE, 0xEE, 0xEE, 0x80, 0x12, 0x34, 0xAA])
      = some (.frameInitial ee 0x80 0x1234 [0xAA]) := by decide
theorem test_decode_frameContinuation :
    instrOf (decode (.wire .continuation) [1, 2, 3, 4, 0x7F, 0x4E]) = some (.frameContinuation c1234 0x7F [0x4E]) := by
  decide
theorem test_decode_infoReport :
    instrOf (decode (.wire .infoReport) ([1, 2, 3, 4, 0xC1, 0x00, 0x01, 0x69] ++ List.replicate 56 0))
      = some (.infoReport c1234) := by decide
/-- A record that ends before its operands, a flag byte of 02: rejected by name. -/
theorem test_decode_rejects :
    decode .command [0x0B, 1, 2, 3] = .error .truncated ∧
    decode .command [0x09, 2, 2, 0, 0, 0, 0] = .error .badFlag := ⟨rfl, rfl⟩
/-- 6 bytes on the wire where an initial frame is expected: no rejection, the notification raises `FrameTooShort` (R65). -/
theorem test_short_wire_buffer :
    (nextOf (step { State.reset with port := [.transaction (.wire .initial) [0xEE, 0xEE, 0xEE, 0xEE, 0x80, 0x00]] })).map
      (·.result) = some (.error .frameTooShort) := by decide
/-- A report whose padding is FF yields its one byte all the same (R105 (f)). -/
theorem test_report_padding :
    (nextOf (step { State.reset with port := [.transaction (.wire .infoReport)
      ([1, 2, 3, 4, 0xC1, 0x00, 0x01, 0x69] ++ List.replicate 56 0xFF)] })).map (·.outputs)
      = some [.messageReceived c1234 0xC1 [0x69]] := by decide
/-- Table words of R100's codes and of the 56-bit initial frame header, bit 0 lowest. -/
theorem test_table_words :
    decodeTableWord 8 0xA = some (.meter 0 0 0) ∧ decodeTableWord 8 0xE = some .reservedE ∧
    decodeTableWord 56 0x34128004030201 = some (.frameInitial c1234 0x80 0x1234 []) := by decide
/-- The table word of `RESET` stored at reset runs as the very next step. -/
theorem test_withFetchWord :
    nextOf (step (State.reset.withFetchWord 8 0xF)) = nextOf (exec .reset State.reset) := by decide

/-! One step of each operation. -/

/-- T3: one payload byte is left for the last continuation frame, which the vector prints as 6 bytes (log entry 26). -/
theorem test_encode_T3 :
    resultOf (exec (.encode 0x80
        [0x41, 0x42, 0x43, 0x44, 0x45, 0x46, 0x47, 0x48, 0x49, 0x4A, 0x4B, 0x4C, 0x4D, 0x4E] 20) State.reset)
      = some (.frames [[0xEE, 0xEE, 0xEE, 0xEE, 0x80, 0x00, 0x0E, 0x41, 0x42, 0x43, 0x44, 0x45, 0x46, 0x47, 0x48, 0x49,
          0x4A, 0x4B, 0x4C, 0x4D], [0xEE, 0xEE, 0xEE, 0xEE, 0x00, 0x4E]]) := by decide
/-- T6. -/
theorem test_encode_T6 :
    resultOf (exec (.encode 0x81 [0xA0, 0xA1, 0xA2, 0xA3] 8) State.reset)
      = some (.frames [[0xEE, 0xEE, 0xEE, 0xEE, 0x81, 0x00, 0x04, 0xA0],
          [0xEE, 0xEE, 0xEE, 0xEE, 0x00, 0xA1, 0xA2, 0xA3]]) := by decide
/-- T44. -/
theorem test_decodeInitial_T44 :
    resultOf (exec (.decodeInitial [1, 2, 3, 4, 0xC1, 0x12, 0x34, 0xAA] none) State.reset)
      = some (.initialParts ⟨c1234, 0xC1, 4660, [0xAA]⟩) := by decide
/-- T45. -/
theorem test_decodeInitial_T45 :
    resultOf (exec (.decodeInitial [1, 2, 3, 4, 0x80, 0x00, 0x01, 0xAA] (some ee)) State.reset)
      = some (.error .channelMismatch) := by decide
/-- T46. -/
theorem test_decodeCont_T46 :
    resultOf (exec (.decodeCont [0xEE, 0xEE, 0xEE, 0xEE, 0x00, 0x4E] (some ee)) State.reset)
      = some (.continuationParts ⟨ee, 0, [0x4E]⟩) := by decide
/-- T49: the length is tested before the channel. -/
theorem test_decodeCont_T49 :
    resultOf (exec (.decodeCont [0xEE, 0xEE, 0xEE, 0xEE] (some c1234)) State.reset)
      = some (.error .frameTooShort) := by decide
/-- S2, first buffer. -/
theorem test_rxNotify_S2_first :
    (nextOf (exec (.rxNotify [0xEE, 0xEE, 0xEE, 0xEE, 0x80, 0x00, 0x0A, 1, 2, 3, 4, 5]) State.reset)).map
      (fun t => (t.rx, t.acc, t.outputs)) = some (a10.rx, a10.acc, []) := by decide
/-- S2, second buffer. -/
theorem test_rxNotify_S2_second :
    (nextOf (exec (.rxNotify [0xEE, 0xEE, 0xEE, 0xEE, 0x00, 6, 7, 8, 9, 0xA]) a10)).map
      (fun t => (t.rx, t.outputs))
      = some (none, [.messageReceived ee 0x80 [1, 2, 3, 4, 5, 6, 7, 8, 9, 0xA]]) := by decide
/-- T110. -/
theorem test_rxTimeout_T110 :
    (nextOf (exec .rxTimeout a10)).map (fun t => (t.rx, t.outputs)) = some (none, [.error .incompleteMessage]) := by
  decide
/-- T114. -/
theorem test_linkDisconnect_T114 :
    (nextOf (exec .linkDisconnect pending)).map (fun t => (t.txStatus, t.txFifo, t.outputs, t.txSubmitted))
      = some (.failed, [], [], 2) := by decide
/-- T71. -/
theorem test_txStart_T71 :
    (nextOf (exec (.txStart [[1], [2], [3]] 30 5000) State.reset)).map
      (fun t => (t.txStatus, t.txSubmitted, t.txAcked, t.level, t.txStartTs, t.txTotalBytes))
      = some (.pending, 3, 0, 3, 5000, 30) := by decide
/-- T75. -/
theorem test_txStart_T75 :
    resultOf (exec (.txStart [[1]] 0 5002) pending) = some (.error .sessionBusy) := by decide
/-- R195: the head leaves. -/
theorem test_txSubmit :
    (nextOf (exec .txSubmit pending)).map (fun t => (t.txFifo, t.outputs, t.inflight))
      = some ([[2]], [.submit [1]], [0]) := by decide
/-- T74: before any submission a confirmation is ignored. -/
theorem test_txConfirm_T74 :
    (nextOf (exec (.txConfirm 0 false 5001) pending)).map (fun t => (t.txAcked, t.outputs)) = some (0, []) := by decide
/-- T72: 30 bytes in 12 ms. -/
theorem test_txConfirm_T72 :
    (nextOf (exec (.txConfirm 1 false 5012) (handedOver 1))).map
      (fun t => (t.txStatus, t.mElapsedMs, t.mRate, t.outputs))
      = some (.completed, some 12, some 2500, [.transferCompleted 30 12 false (some 2500)]) := by decide
/-- T101: the clock wrapped. -/
theorem test_meter_T101 :
    resultOf (exec (.meter 1600 0xFFFFFFF0 0x10) State.reset) = some (.metered ⟨32, false, some 50000⟩) := by decide
/-- T95: no time passed. -/
theorem test_meter_T95 :
    resultOf (exec (.meter 2 1000 1000) State.reset) = some (.metered ⟨0, true, none⟩) := by decide
/-- T117. -/
theorem test_cfgSetChannel_T117 :
    (nextOf (exec (.cfgSetChannel c1234) State.reset)).map
      (fun t => (t.channelId, resultOf (readRegister 0 t))) = some (c1234, some (.register 0x01020304)) := by decide
/-- R203's example. -/
theorem test_send :
    (nextOf (exec (.send 0x80 [0x68, 0x69] 20 1000) State.reset)).map
      (fun t => (t.txStatus, t.txFifo, t.txStartTs, t.txTotalBytes))
      = some (.pending, [[0xEE, 0xEE, 0xEE, 0xEE, 0x80, 0x00, 0x02, 0x68, 0x69]], 1000, 2) := by decide
/-- T85. -/
theorem test_send_T85 :
    resultOf (exec (.send 0x80 [0x68, 0x69] 7 0) pending) = some (.error .mtuTooSmall) := by decide
/-- T119: no event for what reset drops. -/
theorem test_reset_T119 :
    (nextOf (exec .reset { a10 with channelId := c1234, txStatus := .failed, txSubmitted := 3 })).map
      (fun t => (t.channelId, t.rx, t.txStatus, t.txSubmitted, t.outputs)) = some (ee, none, .idle, 0, []) := by decide
/-- T120. -/
theorem test_reserved_T120 :
    exec .reserved0 pending = .refused (.reservedCode 0x0) ∧ exec .reservedD a10 = .refused (.reservedCode 0xD) ∧
      exec .reservedE State.reset = .refused (.reservedCode 0xE) := ⟨rfl, rfl, rfl⟩
/-- T57. -/
theorem test_frameInitial_T57 :
    (nextOf (exec (.frameInitial c1234 0x80 3 [0xAA]) State.reset)).map (fun t => (t.rx, t.acc))
      = some (some ⟨c1234, 0x80, 3, 1, 0⟩, [(0, 0xAA)]) := by decide
/-- T62. -/
theorem test_frameContinuation_T62 :
    (nextOf (exec (.frameContinuation c1234 0 [6, 7, 8, 9, 0xA]) a10)).map (fun t => (t.rx, t.result))
      = some (none, .error .channelMismatch) := by decide
/-- T54. -/
theorem test_infoReport_T54 :
    outputsOf (exec (.infoReport ee) State.reset) = some [.messageReceived ee 0xC1 [0x69]] := by decide
/-- P1's end state, registers 1 and 2. -/
theorem test_registers_P1 :
    (fun s => (resultOf (readRegister 1 s), resultOf (readRegister 2 s)))
      { State.reset with txStatus := .completed, txSubmitted := 3, txAcked := 3, mValid := true,
                         mTotalBytes := some 30, mElapsedMs := some 12, mIndeterminate := some false, mRate := some 2500 }
      = (some (.register 0x0000000A), some (.register 0x00000303)) := by decide

/-! Witnesses: for every statement with hypotheses, a state and operands that meet them, clause by clause. -/

theorem a10_inv : Inv a10 := ⟨⟨rfl, by decide, by decide⟩, by decide, by decide, by decide⟩
theorem a10end_inv : Inv a10end := ⟨⟨rfl, by decide, by decide⟩, by decide, by decide, by decide⟩
theorem pending_inv : Inv pending := ⟨rfl, by decide, by decide, by decide⟩
theorem handedOver_inv : Inv (handedOver 1) := ⟨rfl, by decide, by decide, by decide⟩
theorem failed_inv : Inv (failed 1) := ⟨rfl, by decide, by decide, by decide⟩

theorem greatestInitialChunk (chunk : Bytes) (h : chunk.length = 65528) :
    Instr.WellFormed (.frameInitial ee 0x80 0 chunk) := by
  simp only [Instr.WellFormed, Config.hdrInit, h]; omega

theorem witness_DecodeOfEncodeGivesBackTheInstruction :
    (Instr.WellFormed (.txStart [[0]] 0 0) ∧ Instr.port (.txStart [[0]] 0 0) = .command) ∧
    (Instr.WellFormed (.frameInitial ee 0x80 0 (List.replicate 65528 0)) ∧ ([] : Bytes) = []) :=
  ⟨⟨show framesInDomain [[0]] by decide, rfl⟩, greatestInitialChunk _ List.length_replicate, rfl⟩

theorem witness_DecodedOperationHasTheCodeOfItsRecord : decode .command [0xF5] = .ok (.rxTimeout, []) := rfl

theorem witness_StepRunsTheDecodedOperation :
    ({ State.reset with port := [.transaction .command [0x05]] } : State).port
      = .transaction .command [0x05] :: [] ∧ decode .command [0x05] = .ok (.rxTimeout, []) := ⟨rfl, rfl⟩

theorem witness_StepWithNothingPresented :
    (pending.port = [] ∧ pending.txFifo = [1] :: [[2]]) ∧ State.reset.port = [] ∧ State.reset.txFifo = [] := by decide

theorem witness_RegisterReadChangesNothing :
    ({ State.reset with port := [.readRegister 10] } : State).port = .readRegister 10 :: [] ∧ 10 ≤ 10 ∧
    ({ State.reset with port := [.readRegister 11] } : State).port = .readRegister 11 :: [] ∧ 10 < 11 := by decide

theorem witness_RegisterViewShowsEveryField :
    (fun s : State => s.mIndeterminate = some false ∧ s.mTotalBytes = some 30 ∧ s.mElapsedMs = some 12 ∧
      s.mRate = some 2500 ∧ s.rx = some ⟨ee, 0x80, 10, 5, 0⟩)
      { a10 with mValid := true, mTotalBytes := some 30, mElapsedMs := some 12, mIndeterminate := some false,
                 mRate := some 2500 } := by decide

/-- Every clause at a boundary, at mtu 7 and 8: a header-only frame, 1 byte, 2 bytes, 385 bytes (T13), 386 bytes (T14). -/
theorem witness_EncodeFollowsItsRule :
    (7#16).toNat < 8 ∧ 8 ≤ (8#16).toNat ∧ 65535 < (List.replicate 65536 (0 : Byte)).length ∧
    (List.replicate 1 (0 : Byte)).length ≤ (8#16).toNat - 7 ∧
    (8#16).toNat - 7 < (List.replicate 2 (0 : Byte)).length ∧
    (385 - ((8#16).toNat - 7) + ((8#16).toNat - 5) - 1) / ((8#16).toNat - 5) = 128 ∧
    (386 - ((8#16).toNat - 7) + ((8#16).toNat - 5) - 1) / ((8#16).toNat - 5) = 129 := by
  rw [List.length_replicate]; decide

/-- For `EncodedFramesFitTheMtu`, `EncodedHeaders` and `EncodedFrameCount`: frames at mtu 8, the last one not full. -/
theorem witness_EncodedFrames :
    resultOf (exec (.encode 0x80 [1, 2] 8) State.reset)
      = some (.frames [[0xEE, 0xEE, 0xEE, 0xEE, 0x80, 0, 2, 1], [0xEE, 0xEE, 0xEE, 0xEE, 0, 2]]) := by decide

theorem witness_RoundTripOfEncodeAndReassemble :
    State.reset.rx = none ∧ 8 ≤ (8#16).toNat ∧
      (List.replicate 385 (0 : Byte)).length ≤ min 65535 (129 * (8#16).toNat - 647) := by
  rw [List.length_replicate]; decide

theorem witness_PureOperationsWriteNoState :
    (∃ c p m, (Instr.encode 0x80 [] 8) = .encode c p m) ∧ State.reset.channelId = pending.channelId :=
  ⟨⟨_, _, _, rfl⟩, rfl⟩

theorem witness_DecodeInitialTakesAFrameApart :
    ([0xEE, 0xEE, 0xEE, 0xEE, 0x80, 0x00] : Bytes).length < 7 ∧
    (7 ≤ ([1, 2, 3, 4, 0x80, 0x00, 0x00] : Bytes).length ∧ some ee = some ee ∧
      ([1, 2, 3, 4, 0x80, 0x00, 0x00] : Bytes).take 4 ≠ ee.bytes) ∧
    ([1, 2, 3, 4, 0x80, 0x00, 0x00] : Bytes)
      = [c1234.b0, c1234.b1, c1234.b2, c1234.b3, 0x80, 0x00, 0x00] ++ [] := by decide

theorem witness_DecodeContTakesAFrameApart :
    ([0xEE, 0xEE, 0xEE, 0xEE] : Bytes).length < 5 ∧
    (5 ≤ ([1, 2, 3, 4, 0xFF] : Bytes).length ∧ some ee = some ee ∧ ([1, 2, 3, 4, 0xFF] : Bytes).take 4 ≠ ee.bytes) ∧
    ([1, 2, 3, 4, 0xFF] : Bytes) = [c1234.b0, c1234.b1, c1234.b2, c1234.b3, 0xFF] ++ [] := by decide

theorem witness_ArrivingFramesAreNotifications :
    Instr.port (.frameInitial ee 0 0 []) ≠ .command ∧ Instr.port (.frameContinuation ee 0 []) ≠ .command ∧
      Instr.port (.infoReport ee) ≠ .command := by decide

/-- A buffer without a header, and a report with other padding. -/
theorem witness_WireBuffersAreNotifications :
    ({ State.reset with port := [.transaction (.wire .continuation) []] } : State).port
      = .transaction (.wire .continuation) [] :: [] ∧
    ({ State.reset with port := [.transaction (.wire .infoReport) [1, 2, 3, 4, 0xC1, 0, 1, 0x69, 0xFF]] } : State).port
      = .transaction (.wire .infoReport) [1, 2, 3, 4, 0xC1, 0, 1, 0x69, 0xFF] :: [] := ⟨rfl, rfl⟩

/-- Declared 1 with a chunk of 1, and declared 2 with a chunk of 1; for `ArrivingInitialFrameStartsOrCompletes` and
`InfoReportYieldsItsOneByte` too. -/
theorem witness_InitialFrameStartsOrCompletesAMessage :
    State.reset.rx = none ∧ (1#16).toNat = 256 * (0 : Byte).toNat + (1 : Byte).toNat ∧
    (1#16).toNat ≤ ([0xAA] : Bytes).length ∧ (2#16).toNat = 256 * (0 : Byte).toNat + (2 : Byte).toNat ∧
    ([0xAA] : Bytes).length < (2#16).toNat := by decide

/-- An empty chunk, one that leaves a byte missing, and the last one: for `ContinuationFrameIsAppended`,
`LastContinuationFrameCompletes` and `ArrivingContinuationFrameExtendsOrCompletes`. -/
theorem witness_ContinuationFrame :
    Inv a10 ∧ a10.rx = some ⟨ee, 0x80, 10, 5, 0⟩ ∧ (0#8 ≠ 128) ∧ (5#16).toNat + ([] : Bytes).length < (10#16).toNat ∧
    (5#16).toNat + ([6, 7, 8, 9] : Bytes).length < (10#16).toNat ∧
    (5#16).toNat + ([6, 7, 8, 9, 0xA] : Bytes).length = (10#16).toNat := ⟨a10_inv, by decide⟩

theorem witness_ShortBuffersRaiseFrameTooShort :
    (State.reset.rx = none ∧ (List.replicate 6 (0 : Byte)).length < 7) ∧
    (a10.rx.isSome ∧ (List.replicate 4 (0 : Byte)).length < 5) := by decide

/-- T61, T62, T64 and the end of the sequence space, T60. -/
theorem witness_ReassemblyErrorsInOrder :
    a10.rx = some ⟨ee, 0x80, 10, 5, 0⟩ ∧ ([0xEE, 0xEE, 0xEE, 0xEE] : Bytes).length < 5 ∧
    (5 ≤ ([1, 2, 3, 4, 5] : Bytes).length ∧ ([1, 2, 3, 4, 5] : Bytes).take 4 ≠ ee.bytes) ∧
    (([0xEE, 0xEE, 0xEE, 0xEE, 1] : Bytes).take 4 = ee.bytes ∧
      ([0xEE, 0xEE, 0xEE, 0xEE, 1] : Bytes)[4]? ≠ some (0 : Byte)) ∧
    (a10end.rx = some ⟨ee, 0x80, 10, 5, 128⟩) ∧
    (([0xEE, 0xEE, 0xEE, 0xEE, 0, 6, 7, 8, 9, 0xA, 0xB] : Bytes).take 4 = ee.bytes ∧
      ([0xEE, 0xEE, 0xEE, 0xEE, 0, 6, 7, 8, 9, 0xA, 0xB] : Bytes)[4]? = some (0 : Byte) ∧
      (10#16).toNat < (5#16).toNat + (([0xEE, 0xEE, 0xEE, 0xEE, 0, 6, 7, 8, 9, 0xA, 0xB] : Bytes).length - 5)) := by
  decide

theorem witness_SequenceSpaceEndsAt128 :
    (a10end.rx = some ⟨ee, 0x80, 10, 5, 128⟩ ∧ ([0xEE, 0xEE, 0xEE, 0xEE, 0x80] : Bytes).take 4 = ee.bytes ∧
      ([0xEE, 0xEE, 0xEE, 0xEE, 0x80] : Bytes)[4]? = some (0x80 : Byte) ∧ (128#8 = 128)) ∧
    Inv a10 ∧ 128 ≤ (0x80 : Byte).toNat := ⟨by decide, a10_inv, by decide⟩

theorem witness_MessagesHaveTheDeclaredLength :
    (Inv State.reset ∧ State.reset.rx = none ∧
      outputsOf (exec (.rxNotify [0xEE, 0xEE, 0xEE, 0xEE, 0x80, 0, 0]) State.reset) = some [.messageReceived ee 0x80 []]) ∧
    (Inv a10 ∧ outputsOf (exec (.rxNotify [0xEE, 0xEE, 0xEE, 0xEE, 0x00, 6, 7, 8, 9, 0xA]) a10)
      = some [.messageReceived ee 0x80 [1, 2, 3, 4, 5, 6, 7, 8, 9, 0xA]]) :=
  ⟨⟨⟨rfl, by decide, by decide, by decide⟩, by decide⟩, a10_inv, by decide⟩

theorem witness_OnlyReceiveOperationsChangeRx :
    (∃ t, exec .txSubmit pending = .next t) ∧ mayChangeRx .txSubmit = false := ⟨⟨_, rfl⟩, rfl⟩

theorem witness_LivingAccumulatorKeepsItsHeader :
    (nextOf (exec (.rxNotify [0xEE, 0xEE, 0xEE, 0xEE, 0x00, 6, 7]) a10)).map State.rx
      = some (some ⟨ee, 0x80, 10, 7, 1⟩) ∧ a10.rx = some ⟨ee, 0x80, 10, 5, 0⟩ := by decide

theorem witness_TimeoutDiscardsThePartialMessage : a10.rx.isSome ∧ State.reset.rx = none := by decide

theorem witness_DisconnectAbortsBothSides :
    (({ pending with rx := a10.rx } : State).txStatus = .pending ∧ ({ pending with rx := a10.rx } : State).rx.isSome) ∧
    (pending.txStatus = .pending ∧ pending.rx = none) ∧ (a10.txStatus ≠ .pending ∧ a10.rx.isSome) ∧
    (State.reset.txStatus ≠ .pending ∧ State.reset.rx = none) := by decide

theorem witness_StartBeginsASessionOrIsBusy :
    framesInDomain (List.replicate 129 [0]) ∧ (failed 1).txStatus ≠ .pending ∧ pending.txStatus = .pending ∧
    8 ≤ (8#16).toNat ∧ (List.replicate 385 (0 : Byte)).length ≤ min 65535 (129 * (8#16).toNat - 647) := by
  refine ⟨⟨?_, fun f hf => ?_⟩, by decide, by decide, by decide, ?_⟩
  · rw [List.length_replicate]; decide
  · rw [List.eq_of_mem_replicate hf]; decide
  · rw [List.length_replicate]; decide

theorem witness_DomainOfStart :
    (([] : List Bytes).length = 0 ∧ 129 < (List.replicate 130 ([0] : Bytes)).length ∧
      ∃ f ∈ ([[0], []] : List Bytes), f.length = 0 ∨ 65535 < f.length) ∧
    65535 < (List.replicate 65536 (0 : Byte)).length ∧
    (1 ≤ ([[0]] : List Bytes).length ∧ ∀ f ∈ ([[0]] : List Bytes), 1 ≤ f.length ∧ f.length ≤ 65535) ∧
    ∃ fs, exec (.encode 0x80 [1, 2] 8) State.reset = .next { State.reset with result := .frames fs } := by
  rw [List.length_replicate, List.length_replicate]
  exact ⟨by decide, by decide, by decide, _, rfl⟩

theorem witness_SubmitHandsOverTheHead : pending.txFifo = [1] :: [[2]] := rfl

/-- `Pending` with one handed over and none counted; the other clauses at equality. -/
theorem witness_ConfirmationsAreCountedOrIgnored :
    ((handedOver 1).txStatus = .pending ∧
      (handedOver 1).txAcked.toNat < (handedOver 1).txSubmitted.toNat - (handedOver 1).txFifo.length) ∧
    ((failed 1).txStatus = .failed ∧ (failed 1).txAcked.toNat < (failed 1).txSubmitted.toNat) ∧
    State.reset.txStatus = .idle ∧ ({ handedOver 2 with txStatus := .completed } : State).txStatus = .completed ∧
    (pending.txStatus = .pending ∧ pending.txSubmitted.toNat - pending.txFifo.length ≤ pending.txAcked.toNat) ∧
    ((failed 2).txStatus = .failed ∧ (failed 2).txSubmitted.toNat ≤ (failed 2).txAcked.toNat) := by decide

/-- Both ways to count, and the boundary where a confirmation with an error is ignored. -/
theorem witness_ConfirmIndexIsOnlyReported :
    ((handedOver 1).txStatus = .pending ∧
      (handedOver 1).txAcked.toNat < (handedOver 1).txSubmitted.toNat - (handedOver 1).txFifo.length) ∧
    ((failed 1).txStatus = .failed ∧ (failed 1).txAcked.toNat < (failed 1).txSubmitted.toNat) ∧
    ¬(pending.txAcked.toNat < pending.txSubmitted.toNat - pending.txFifo.length) := by decide

theorem witness_CountedConfirmationAdvancesTheCount :
    (handedOver 0).txStatus = .pending ∧
    (handedOver 0).txAcked.toNat < (handedOver 0).txSubmitted.toNat - (handedOver 0).txFifo.length ∧
    (handedOver 0).txAcked.toNat + 1 < (handedOver 0).txSubmitted.toNat := by decide

/-- With time passed and with none (T83). -/
theorem witness_LastConfirmationCompletes :
    (handedOver 1).txStatus = .pending ∧ (handedOver 1).txAcked.toNat + 1 = (handedOver 1).txSubmitted.toNat ∧
    (handedOver 1).txFifo = [] ∧ (12 : BitVec 32) = 5012 - (handedOver 1).txStartTs ∧
    (false = if (12 : BitVec 32) = 0 then true else false) ∧
    (some (2500 : BitVec 32) = if (12 : BitVec 32) = 0 then none
      else some (BitVec.ofNat 32 ((handedOver 1).txTotalBytes.toNat * 1000 / (12 : BitVec 32).toNat))) ∧
    (0 : BitVec 32) = 5000 - (handedOver 1).txStartTs := by decide

theorem witness_FailedConfirmationFailsTheSession :
    ((handedOver 0).txStatus = .pending ∧
      (handedOver 0).txAcked.toNat < (handedOver 0).txSubmitted.toNat - (handedOver 0).txFifo.length) ∧
    ((failed 1).txStatus = .failed ∧ (failed 1).txAcked.toNat < (failed 1).txSubmitted.toNat) ∧
    ∃ t, exec .rxTimeout (failed 1) = .next t := ⟨by decide, by decide, _, rfl⟩

/-- Two frames, confirmed out of step with their submissions and under indices out of range. -/
theorem witness_CompletionWhateverTheOrderOfConfirmations :
    State.reset.txStatus ≠ .pending ∧ framesInDomain [[1], [2]] ∧
    Delivery 2 0 [.txSubmit, .txConfirm 9 false 3, .txSubmit, .txConfirm 9 false 5] :=
  ⟨by decide, by decide, .submit (.confirm 9 3 (.submit (.confirm 9 5 .nil)))⟩

theorem witness_SendEncodesThenStarts :
    (8 ≤ (8#16).toNat ∧ (List.replicate 385 (0 : Byte)).length ≤ min 65535 (129 * (8#16).toNat - 647) ∧
      pending.txStatus = .pending ∧ State.reset.txStatus ≠ .pending) ∧ (7#16).toNat < 8 ∧
    min 65535 (129 * (8#16).toNat - 647) < (List.replicate 386 (0 : Byte)).length := by
  rw [List.length_replicate, List.length_replicate]; decide

/-- Each transition is taken by some operation. -/
theorem witness_SessionStatusTransitions :
    (nextOf (exec .reset pending)).map State.txStatus = some .idle ∧
    (nextOf (exec (.txStart [[1]] 1 0) (failed 1))).map State.txStatus = some .pending ∧
    (nextOf (exec (.txConfirm 0 false 0) (handedOver 1))).map State.txStatus = some .completed ∧
    (nextOf (exec (.txConfirm 0 true 0) (handedOver 0))).map State.txStatus = some .failed ∧
    (nextOf (exec .linkDisconnect pending)).map State.txStatus = some .failed := by decide

theorem witness_OnlySendOperationsChangeTheSession :
    (∃ t, exec .rxTimeout pending = .next t) ∧ mayChangeSession .rxTimeout = false := ⟨⟨_, rfl⟩, rfl⟩

theorem witness_MeterResults : (5 : BitVec 32) = 5 ∧ (5 : BitVec 32) ≠ 6 := by decide

theorem witness_ElapsedTimeSurvivesTheWrap : 4294967295 < 4294967296 ∧ 0 < 4294967296 := by decide

theorem witness_SetChannelWritesOnlyChannelId :
    resultOf (runOps [.cfgSetChannel c1234, .encode 0x80 [] 8] State.reset)
      = some (.frames [[1, 2, 3, 4, 0x80, 0, 0]]) := by decide

theorem witness_OnlyConfigurationChangesChannelId :
    (nextOf (exec (.cfgSetChannel c1234) State.reset)).map State.channelId = some c1234 ∧
    c1234 ≠ State.reset.channelId ∧
    (nextOf (exec .reset { State.reset with channelId := c1234 })).map State.channelId = some ee := by decide

/-- For `SessionParametersChangeOnlyAtAStart`, `MeterRegistersAreWrittenOnlyByCompletion` and `OneOutputAndErrorsAreBoth`: a start, a
completion, a reset, an error, and an operation that outputs nothing. -/
theorem witness_NextStates :
    (nextOf (exec (.txStart [[1]] 1 7) State.reset)).map State.txStartTs = some 7 ∧
    (nextOf (exec (.txConfirm 1 false 5012) (handedOver 1))).map State.mValid = some true ∧
    (nextOf (exec .reset { State.reset with mValid := true })).map State.mValid = some false ∧
    outputsOf (exec .rxTimeout a10) = some [.error .incompleteMessage] ∧
    outputsOf (exec .rxTimeout State.reset) = some [] := by decide

theorem witness_EveryOtherOperationCompletes :
    HasNoMeaning .txSubmit State.reset ∧ ¬ HasNoMeaning .txSubmit pending := ⟨rfl, by simp [HasNoMeaning, pending]⟩

theorem witness_EveryStepKeepsTheInvariant : Inv pending ∧ ∃ t, step pending = .next t := ⟨pending_inv, _, rfl⟩

end Sys2Proof.Tests
end

section
/-! PROOFS. What one operation can do, said once for the whole machine; and the family 10_state.md: the table of R50, and who
writes the meter's registers (R37). -/

namespace Sys2Proof.Machine

/-! Every operation, its guard and its next state. -/

/-- The state after `raise` (60_exceptions.md R265, R279). -/
abbrev State.raised (s : State) (e : BlockError) : State := (s.emit (.error e)).setResult (.error e)

/-- The buffer an instruction delivers to the reassembler: a notification's own, or the bytes of a frame on the wire
(assumption log entry 11). -/
def deliveredBuffer : Instr → Option Bytes
  | .rxNotify b => some b
  | .frameInitial ch c len x => some (initialFrame ch c len x)
  | .frameContinuation ch q x => some (continuationFrame ch q x)
  | .infoReport ch => some (infoReportFrame ch)
  | _ => none

/-- A disconnect leaves the session as it is, or fails one that is `Pending` (46_link_config_ops.md R250). -/
theorem State.abortSession_cases (s : State) :
    (s.txStatus = .pending ∧ s.abortSession = s.failSession) ∨ (s.txStatus ≠ .pending ∧ s.abortSession = s) := by
  by_cases hp : s.txStatus = .pending
  · exact .inl ⟨hp, if_pos hp⟩
  · exact .inr ⟨hp, if_neg hp⟩

/-- Everything one operation can do: per instruction, each guard under which it answers a next state, and that state. -/
inductive ExecStep (s : State) : Instr → State → Prop where
  | encodes {c : Byte} {p : Bytes} {mtu : BitVec 16} {fs : List Bytes} (h : cutMessage s.channelId c p mtu = .ok fs) :
    ExecStep s (.encode c p mtu) (s.setResult (.frames fs))
  | encodeFails {c : Byte} {p : Bytes} {mtu : BitVec 16} {e : BlockError}
    (h : cutMessage s.channelId c p mtu = .error e) : ExecStep s (.encode c p mtu) (s.raised e)
  | decodesInitial {f : Bytes} {ch : Option ChannelId} {x : InitialParts} (h : parseInitial f ch = .ok x) :
    ExecStep s (.decodeInitial f ch) (s.setResult (.initialParts x))
  | decodeInitialFails {f : Bytes} {ch : Option ChannelId} {e : BlockError} (h : parseInitial f ch = .error e) :
    ExecStep s (.decodeInitial f ch) (s.raised e)
  | decodesCont {f : Bytes} {ch : Option ChannelId} {x : ContinuationParts} (h : parseContinuation f ch = .ok x) :
    ExecStep s (.decodeCont f ch) (s.setResult (.continuationParts x))
  | decodeContFails {f : Bytes} {ch : Option ChannelId} {e : BlockError} (h : parseContinuation f ch = .error e) :
    ExecStep s (.decodeCont f ch) (s.raised e)
  | receives {i : Instr} {b : Bytes} {t : State} (hi : deliveredBuffer i = some b) (hb : receive b s = .next t)
    (h : ReceiveStep s t) : ExecStep s i t
  | timesOut (h : s.rx.isSome) : ExecStep s .rxTimeout (s.discardRx.raised .incompleteMessage)
  | timesOutIdle (h : s.rx = none) : ExecStep s .rxTimeout (s.setResult .done)
  | disconnects (h : s.rx.isSome) :
    ExecStep s .linkDisconnect (s.abortSession.discardRx.raised .incompleteMessage)
  | disconnectsIdle (h : s.rx = none) : ExecStep s .linkDisconnect (s.abortSession.setResult .done)
  | starts {fs : List Bytes} {b : BitVec 16} {now : BitVec 32} (hd : framesInDomain fs) (hs : s.txStatus ≠ .pending) :
    ExecStep s (.txStart fs b now) ((s.loadSession fs b now).setResult .done)
  | startBusy {fs : List Bytes} {b : BitVec 16} {now : BitVec 32} (hd : framesInDomain fs) (hs : s.txStatus = .pending) :
    ExecStep s (.txStart fs b now) (s.raised .sessionBusy)
  | submits {f : Bytes} {rest : List Bytes} (h : s.txFifo = f :: rest) :
    ExecStep s .txSubmit (((s.popFrame rest).emit (.submit f)).setResult .done)
  | confirms {x : BitVec 8} {err : Bool} {now : BitVec 32} {t : State} (h : ConfirmStep s x err now t) :
    ExecStep s (.txConfirm x err now) t
  | meters {b : BitVec 16} {start now : BitVec 32} :
    ExecStep s (.meter b start now) (s.setResult (.metered (meterOf b start now)))
  | setsChannel {ch : ChannelId} : ExecStep s (.cfgSetChannel ch) ((s.setChannel ch).setResult .done)
  | sendFails {c : Byte} {p : Bytes} {mtu : BitVec 16} {now : BitVec 32} {e : BlockError}
    (h : cutMessage s.channelId c p mtu = .error e) : ExecStep s (.send c p mtu now) (s.raised e)
  | sends {c : Byte} {p : Bytes} {mtu : BitVec 16} {now : BitVec 32} {fs : List Bytes}
    (h : cutMessage s.channelId c p mtu = .ok fs) (hs : s.txStatus ≠ .pending) :
    ExecStep s (.send c p mtu now) ((s.loadSession fs (BitVec.ofNat 16 p.length) now).setResult .done)
  | sendBusy {c : Byte} {p : Bytes} {mtu : BitVec 16} {now : BitVec 32} {fs : List Bytes}
    (h : cutMessage s.channelId c p mtu = .ok fs) (hs : s.txStatus = .pending) :
    ExecStep s (.send c p mtu now) (s.raised .sessionBusy)
  | resets : ExecStep s .reset (s.resetBlock.setResult .done)

theorem exec_of_deliveredBuffer (i : Instr) (b : Bytes) (s : State) (hi : deliveredBuffer i = some b) :
    exec i s = receive b s := by
  unfold deliveredBuffer at hi
  split at hi <;> cases hi <;> rfl

/-- A buffer delivered is one of the reassembler's steps. -/
theorem execStep_of_deliveredBuffer (i : Instr) (b : Bytes) (s t : State) (hi : deliveredBuffer i = some b)
    (h : exec i s = .next t) : ExecStep s i t := by
  rw [exec_of_deliveredBuffer i b s hi] at h
  obtain ⟨u, hu, hstep⟩ := receive_step b s
  obtain rfl : u = t := by simpa [hu] using h
  exact .receives hi hu hstep

/-- An operation that answers a next state takes one of the steps of `ExecStep`. -/
theorem execStep_of_exec (i : Instr) (s t : State) (h : exec i s = .next t) : ExecStep s i t := by
  cases i with
  | encode c p mtu =>
    simp only [exec, execEncode] at h
    split at h <;> cases h
    · exact .encodes ‹_›
    · exact .encodeFails ‹_›
  | decodeInitial f ch =>
    simp only [exec, execDecodeInitial] at h
    split at h <;> cases h
    · exact .decodesInitial ‹_›
    · exact .decodeInitialFails ‹_›
  | decodeCont f ch =>
    simp only [exec, execDecodeCont] at h
    split at h <;> cases h
    · exact .decodesCont ‹_›
    · exact .decodeContFails ‹_›
  | rxNotify b => exact execStep_of_deliveredBuffer _ _ s t rfl h
  | rxTimeout =>
    obtain ⟨hr, rfl⟩ | ⟨hr, rfl⟩ := abandonRx_cases s t h
    · exact .timesOut hr
    · exact .timesOutIdle hr
  | linkDisconnect =>
    have hrx : s.abortSession.rx = s.rx := by obtain ⟨-, e⟩ | ⟨-, e⟩ := s.abortSession_cases <;> simp [e]
    obtain ⟨hr, rfl⟩ | ⟨hr, rfl⟩ := abandonRx_cases s.abortSession t h
    · exact .disconnects (hrx ▸ hr)
    · exact .disconnectsIdle (hrx ▸ hr)
  | txStart fs b now =>
    simp only [exec, execTxStart] at h
    split_ifs at h with hd
    obtain ⟨hs, rfl⟩ | ⟨hs, rfl⟩ := beginSession_cases fs b now s t h
    · exact .startBusy hd hs
    · exact .starts hd hs
  | txSubmit =>
    simp only [exec, execTxSubmit] at h
    split at h <;> cases h
    exact .submits ‹_›
  | txConfirm x err now =>
    obtain ⟨u, hu, hstep⟩ := execTxConfirm_step x err now s
    obtain rfl : u = t := by simpa [exec, hu] using h
    exact .confirms hstep
  | meter b start now => cases h; exact .meters
  | cfgSetChannel ch => cases h; exact .setsChannel
  | send c p mtu now =>
    simp only [exec, execSend] at h
    split at h
    · cases h
      exact .sendFails ‹_›
    · obtain ⟨hs, rfl⟩ | ⟨hs, rfl⟩ := beginSession_cases _ _ now s t h
      · exact .sendBusy ‹_› hs
      · exact .sends ‹_› hs
  | reset => cases h; exact .resets
  | reserved0 => cases h
  | reservedD => cases h
  | reservedE => cases h
  | frameInitial ch c len x => exact execStep_of_deliveredBuffer _ _ s t rfl h
  | frameContinuation ch q x => exact execStep_of_deliveredBuffer _ _ s t rfl h
  | infoReport ch => exact execStep_of_deliveredBuffer _ _ s t rfl h

/-! The meter's registers (R37). -/

/-- The five result registers of the meter hold in `t` what they hold in `s`. -/
abbrev SameMeter (s t : State) : Prop :=
  t.mValid = s.mValid ∧ t.mTotalBytes = s.mTotalBytes ∧ t.mElapsedMs = s.mElapsedMs ∧
    t.mIndeterminate = s.mIndeterminate ∧ t.mRate = s.mRate

theorem ReceiveStep.sameMeter {s t : State} (h : ReceiveStep s t) : SameMeter s t := by
  cases h <;> exact ⟨rfl, rfl, rfl, rfl, rfl⟩

theorem sameMeter_abortSession (s : State) : SameMeter s s.abortSession := by
  obtain ⟨-, e⟩ | ⟨-, e⟩ := s.abortSession_cases <;> simp [SameMeter, e]

/-- What the registers say once the session is completed: the values of the event, a rate exactly when not indeterminate. -/
theorem ConfirmStep.sameMeter_or_completed {s t : State} {x : BitVec 8} {err : Bool} {now : BitVec 32}
    (h : ConfirmStep s x err now t) :
    SameMeter s t ∨
    ∃ b e ind r, err = false ∧ s.txStatus = .pending ∧ t.txStatus = .completed ∧
      t.outputs = s.outputs ++ [.transferCompleted b e ind r] ∧ t.mValid = true ∧ t.mTotalBytes = some b ∧
      t.mElapsedMs = some e ∧ t.mIndeterminate = some ind ∧ t.mRate = r ∧ (r.isSome ↔ ind = false) := by
  cases h with
  | completes hp _ he _ m hm =>
    obtain ⟨-, hrate, -⟩ := meterOf_spec s.txTotalBytes s.txStartTs now
    exact .inr ⟨_, _, _, _, he, hp, rfl, rfl, rfl, rfl, rfl, rfl, rfl, hm ▸ hrate⟩
  | ignored | fails | counts | late => exact .inl ⟨rfl, rfl, rfl, rfl, rfl⟩

end Sys2Proof.Machine

open Sys2Proof Sys2Proof.Machine

/-- Settles O9: each row of the table of R50 is the reset value of that field. -/
theorem resetLeavesTheTable : Obligations.ResetLeavesTheTable :=
  ⟨State.reset_channelId, State.reset_rx, State.reset_txStatus, State.reset_txFifo, State.reset_txSubmitted,
    State.reset_txAcked, State.reset_txStartTs, State.reset_txTotalBytes, State.reset_mValid, State.reset_mTotalBytes,
    State.reset_mElapsedMs, State.reset_mIndeterminate, State.reset_mRate⟩

/-- Settles O51, by the cases of `ExecStep`: only RESET and a completing confirmation reach the meter's registers. -/
theorem meterRegistersAreWrittenOnlyByCompletion : Obligations.MeterRegistersAreWrittenOnlyByCompletion := by
  intro i s t h
  cases execStep_of_exec i s t h with
  | resets => exact .inr (.inl ⟨rfl, rfl, rfl, rfl, rfl, rfl⟩)
  | confirms hc =>
    obtain hsame | ⟨b, e, ind, r, rfl, hcompleted⟩ := hc.sameMeter_or_completed
    · exact .inl hsame
    · exact .inr (.inr ⟨_, _, b, e, ind, r, rfl, hcompleted⟩)
  | receives _ _ hr => exact .inl hr.sameMeter
  | disconnects | disconnectsIdle => exact .inl (sameMeter_abortSession s)
  | _ => exact .inl ⟨rfl, rfl, rfl, rfl, rfl⟩

end

section
/-! PROOFS. The family 30_encoding.md: the wire layouts of R91 and R92, and the reserved operation codes (R105 (a)). -/

namespace Sys2Proof

/-- The bytes of `be16` are the word's own bits: bits 15..8, then bits 7..0 (00_scope.md R10). -/
theorem be16_eq_extractLsb' (v : BitVec 16) : be16 v = [v.extractLsb' 8 8, v.extractLsb' 0 8] := by
  simp only [be16, List.cons.injEq, and_true]
  constructor <;> apply BitVec.eq_of_toNat_eq <;>
    simp [BitVec.extractLsb'_toNat, Nat.shiftRight_eq_div_pow]

/-- The layout of R91, the declared length as its two bytes. -/
theorem initialFrame_eq_bytes (ch : ChannelId) (command : Byte) (len : BitVec 16) (chunk : Bytes) :
    initialFrame ch command len chunk
      = [ch.b0, ch.b1, ch.b2, ch.b3, command, len.extractLsb' 8 8, len.extractLsb' 0 8] ++ chunk := by
  rw [initialFrame, be16_eq_extractLsb']
  rfl

/-- The layout of R92. -/
theorem continuationFrame_eq_bytes (ch : ChannelId) (seq : Byte) (chunk : Bytes) :
    continuationFrame ch seq chunk = [ch.b0, ch.b1, ch.b2, ch.b3, seq] ++ chunk := rfl

end Sys2Proof

open Sys2Proof Sys2Proof.Machine

/-- Settles O4: a frame encodes to its own bytes, and the two length bytes are the halves of the declared length. -/
theorem wireFrameLayouts : Obligations.WireFrameLayouts :=
  ⟨initialFrame_eq_bytes, continuationFrame_eq_bytes⟩

/-- Settles O56: the dispatcher answers each reserved code by a refusal that does not look at the state. -/
theorem reservedCodesAreRefused : Obligations.ReservedCodesAreRefused :=
  fun _ => ⟨rfl, rfl, rfl⟩

end

section
/-! PROOFS. The family 40_frame_encoder.md: the rule of ENCODE (R130), the headers of its frames (R131), and that the pure
operations write no state (R139). -/

namespace Sys2Proof.Machine

/-! The operations that only compute. -/

/-- How an operation that only computes ends: with its value as the result, or with its error raised (R139, R150). -/
def answer {α : Type} (k : α → OpResult) (x : Except BlockError α) (s : State) : Answer :=
  match x with
  | .ok a => finish (k a) s
  | .error e => raise e s

@[simp] theorem answer_ok {α : Type} (k : α → OpResult) (a : α) (s : State) :
    answer k (.ok a) s = .next { s with result := k a } := rfl

@[simp] theorem answer_error {α : Type} (k : α → OpResult) (e : BlockError) (s : State) :
    answer k (.error e) s = .next { s with result := .error e, outputs := s.outputs ++ [.error e] } := rfl

theorem exec_encode (c : Byte) (p : Bytes) (mtu : BitVec 16) (s : State) :
    exec (.encode c p mtu) s = answer .frames (cutMessage s.channelId c p mtu) s := by
  simp only [exec, execEncode]
  cases cutMessage s.channelId c p mtu <;> rfl

theorem exec_decodeInitial (f : Bytes) (acc : Option ChannelId) (s : State) :
    exec (.decodeInitial f acc) s = answer .initialParts (parseInitial f acc) s := by
  simp only [exec, execDecodeInitial]
  cases parseInitial f acc <;> rfl

theorem exec_decodeCont (f : Bytes) (acc : Option ChannelId) (s : State) :
    exec (.decodeCont f acc) s = answer .continuationParts (parseContinuation f acc) s := by
  simp only [exec, execDecodeCont]
  cases parseContinuation f acc <;> rfl

theorem exec_meter (b : BitVec 16) (start now : BitVec 32) (s : State) :
    exec (.meter b start now) s = answer .metered (.ok (meterOf b start now)) s := rfl

theorem cutMessage_ne_sessionBusy (ch : ChannelId) (c : Byte) (p : Bytes) (mtu : BitVec 16) :
    cutMessage ch c p mtu ≠ .error .sessionBusy := by
  obtain ⟨-, e⟩ | ⟨-, -, e⟩ | ⟨-, -, e⟩ := cutMessage_cases ch c p mtu <;> simp [e]

theorem parseInitial_ne_sessionBusy (f : Bytes) (acc : Option ChannelId) :
    parseInitial f acc ≠ .error .sessionBusy := by
  obtain hshort | hlong := Nat.lt_or_ge f.length 7
  · simp [parseInitial_short f acc hshort]
  · obtain ⟨ch, c, len, x, rfl, -⟩ := initialFrame_of_length f hlong
    rw [parseInitial_frame]
    split <;> simp

theorem parseContinuation_ne_sessionBusy (f : Bytes) (acc : Option ChannelId) :
    parseContinuation f acc ≠ .error .sessionBusy := by
  obtain hshort | hlong := Nat.lt_or_ge f.length 5
  · simp [parseContinuation_short f acc hshort]
  · obtain ⟨ch, q, x, rfl⟩ := continuationFrame_of_length f hlong
    rw [parseContinuation_frame]
    split <;> simp

/-- Two states that answer by the same computation get the same value, or the same error, and nothing else changes. -/
theorem same_result_or_error_of_answer {α : Type} {k : α → OpResult} {x : Except BlockError α} {i : Instr}
    {s₁ s₂ : State} (hk : ∀ a e, k a ≠ .error e) (hx : x ≠ .error .sessionBusy)
    (h₁ : exec i s₁ = answer k x s₁) (h₂ : exec i s₂ = answer k x s₂) :
    (∃ r, (∀ e, r ≠ .error e) ∧ exec i s₁ = .next { s₁ with result := r } ∧
      exec i s₂ = .next { s₂ with result := r }) ∨
    (∃ e, e ≠ .sessionBusy ∧
      exec i s₁ = .next { s₁ with result := .error e, outputs := s₁.outputs ++ [.error e] } ∧
      exec i s₂ = .next { s₂ with result := .error e, outputs := s₂.outputs ++ [.error e] }) := by
  cases x with
  | ok a => exact .inl ⟨k a, hk a, h₁, h₂⟩
  | error e => exact .inr ⟨e, fun he => hx (he ▸ rfl), h₁, h₂⟩

/-! The frames ENCODE makes. -/

/-- The two length bytes of an initial frame hold its declared length, high byte first (R91). -/
theorem initialFrame_header_bytes (ch : ChannelId) (c : Byte) (len : BitVec 16) (x : Bytes) :
    ∃ h l : Byte, (initialFrame ch c len x)[4]? = some c ∧ (initialFrame ch c len x)[5]? = some h ∧
      (initialFrame ch c len x)[6]? = some l ∧ 256 * h.toNat + l.toNat = len.toNat :=
  ⟨_, _, rfl, rfl, rfl, by rw [← toNat_ube16, ube16_be16]⟩

/-- A payload longer than the initial frame's capacity needs `ceil_div` of the rest (R135). -/
theorem continuationsNeeded_long (mtu : BitVec 16) (len : Nat) (hl : mtu.toNat - 7 < len) :
    continuationsNeeded mtu len = (len - (mtu.toNat - 7) + (mtu.toNat - 5) - 1) / (mtu.toNat - 5) :=
  if_neg (Nat.not_le.mpr hl)

/-- An ENCODE that returns a frame list was within its bounds, and the list is that of R130. -/
theorem frames_of_exec_encode {s t : State} {c : Byte} {p : Bytes} {mtu : BitVec 16} {fs : List Bytes}
    (h : exec (.encode c p mtu) s = .next t) (ht : t.result = .frames fs) :
    8 ≤ mtu.toNat ∧ p.length ≤ min 65535 (129 * mtu.toNat - 647) ∧
    fs = initialFrame s.channelId c (BitVec.ofNat 16 p.length) (p.take (mtu.toNat - 7))
      :: (List.range (continuationsNeeded mtu p.length)).map (continuationAt s.channelId p mtu) := by
  rw [exec_encode] at h
  obtain ⟨-, e⟩ | ⟨-, -, e⟩ | ⟨hmtu, hlen, e⟩ := cutMessage_cases s.channelId c p mtu <;> rw [e] at h <;> cases h
  · cases ht
  · cases ht
  · exact ⟨hmtu, hlen, (OpResult.frames.inj ht).symm⟩

end Sys2Proof.Machine

open Sys2Proof Sys2Proof.Machine

/-- Settles O11: each clause is one case of `cutMessage`, the second test written as a bound on `n` by
`continuationsNeeded_le_iff`. -/
theorem encodeFollowsItsRule : Obligations.EncodeFollowsItsRule := by
  intro s command p mtu n hn
  have hneeded : mtu.toNat - 7 < p.length → continuationsNeeded mtu p.length = n :=
    fun hl => (continuationsNeeded_long mtu p.length hl).trans hn.symm
  rw [exec_encode]
  refine ⟨fun hmtu => ?_, fun hmtu hlarge => ?_, fun hmtu _ hfits => ?_, fun hmtu hlen hlong hmax => ?_,
    fun hmtu hlong hmax => ?_⟩
  · rw [cutMessage_small _ _ _ _ hmtu, answer_error]
  · rw [cutMessage_large _ _ _ _ hmtu (by omega), answer_error]
  · rw [cutMessage_ok _ _ _ _ hmtu (by omega), continuationsNeeded_short _ _ hfits, List.take_of_length_le hfits]
    rfl
  · have hbound := (continuationsNeeded_le_iff mtu hmtu p.length).mp (hneeded hlong ▸ hmax)
    rw [cutMessage_ok _ _ _ _ hmtu (by omega), hneeded hlong]
    refine ⟨_, rfl, by simp, rfl, fun k hk => ?_⟩
    simp [hk, continuationAt_eq, continuationFrame]
  · have hbound := mt (continuationsNeeded_le_iff mtu hmtu p.length).mpr (by rw [hneeded hlong]; omega)
    rw [cutMessage_large _ _ _ _ hmtu (by omega), answer_error]

/-- Settles O14: the header bytes of the initial frame and of each continuation frame in the list of R130. -/
theorem encodedHeaders : Obligations.EncodedHeaders := by
  intro s t command p mtu fs h ht
  obtain ⟨hmtu, hlen, rfl⟩ := frames_of_exec_encode h ht
  refine ⟨fun f hf => ?_, fun f hf => ?_, fun k f hf => ?_⟩
  · obtain rfl | ⟨k, -, rfl⟩ := by simpa only [List.mem_cons, List.mem_map] using hf
    · exact take4_initialFrame ..
    · rw [continuationAt_eq]
      exact take4_continuationFrame ..
  · cases hf
    have hwhole : (BitVec.ofNat 16 p.length).toNat = p.length := by simp; omega
    have hheader := initialFrame_header_bytes s.channelId command (BitVec.ofNat 16 p.length) (p.take (mtu.toNat - 7))
    rwa [hwhole] at hheader
  · obtain ⟨hk, rfl⟩ : k < continuationsNeeded mtu p.length ∧ continuationAt s.channelId p mtu k = f := by
      simpa [List.getElem?_eq_some_iff] using hf
    have hmax := (continuationsNeeded_le_iff mtu hmtu p.length).mpr (by omega)
    refine ⟨BitVec.ofNat 8 k, ?_, ?_, by omega⟩
    · rw [continuationAt_eq, get4_continuationFrame]
    · rw [BitVec.toNat_ofNat]; omega

/-- Settles O17: each of the four answers by a computation on its operands and, for ENCODE, `CHANNEL_ID`. -/
theorem pureOperationsWriteNoState : Obligations.PureOperationsWriteNoState := by
  rintro i s₁ s₂ (⟨c, p, mtu, rfl⟩ | ⟨f, acc, rfl⟩ | ⟨f, acc, rfl⟩ | ⟨b, start, now, rfl⟩) hch
  · exact same_result_or_error_of_answer (by simp) (cutMessage_ne_sessionBusy _ _ _ _) (exec_encode c p mtu s₁)
      (hch ▸ exec_encode c p mtu s₂)
  · exact same_result_or_error_of_answer (by simp) (parseInitial_ne_sessionBusy _ _) (exec_decodeInitial f acc s₁)
      (exec_decodeInitial f acc s₂)
  · exact same_result_or_error_of_answer (by simp) (parseContinuation_ne_sessionBusy _ _) (exec_decodeCont f acc s₁)
      (exec_decodeCont f acc s₂)
  · exact same_result_or_error_of_answer (by simp) (by simp) (exec_meter b start now s₁) (exec_meter b start now s₂)

end

section
/-! PROOFS. The family 41_frame_decoder.md: DECODE_INITIAL (R151) and DECODE_CONT (R152) take a frame apart, the length tested
before the channel (R153). -/

namespace Sys2Proof.Machine

/-! The channel test of both decoders (R154). -/

theorem channelDiffers_of_bytes_ne {ch ch' : ChannelId} (h : ch.bytes ≠ ch'.bytes) :
    channelDiffers ch (some ch') = true := by
  simpa [ChannelId.bytes_inj] using h

theorem channelDiffers_eq_false {ch : ChannelId} {acc : Option ChannelId} (h : acc = none ∨ acc = some ch) :
    channelDiffers ch acc = false := by
  obtain rfl | rfl := h <;> simp

/-! DECODE_INITIAL. -/

/-- The layout of R91 read from its bytes: any two length bytes are those of an initial frame. -/
theorem initialFrame_ube16 (ch : ChannelId) (c h l : Byte) (x : Bytes) :
    initialFrame ch c (ube16 h l) x = [ch.b0, ch.b1, ch.b2, ch.b3, c, h, l] ++ x := by
  simp [initialFrame, ChannelId.bytes, be16_ube16]

/-- A whole initial header of another channel (R151). -/
theorem parseInitial_otherChannel {b : Bytes} {ch : ChannelId} (hlong : 7 ≤ b.length) (hne : b.take 4 ≠ ch.bytes) :
    parseInitial b (some ch) = .error .channelMismatch := by
  obtain ⟨ch', c, len, x, rfl, -⟩ := initialFrame_of_length b hlong
  rw [take4_initialFrame] at hne
  rw [parseInitial_frame, if_pos (channelDiffers_of_bytes_ne hne)]

/-! DECODE_CONT. -/

/-- A whole continuation header of another channel (R152). -/
theorem parseContinuation_otherChannel {b : Bytes} {ch : ChannelId} (hlong : 5 ≤ b.length) (hne : b.take 4 ≠ ch.bytes) :
    parseContinuation b (some ch) = .error .channelMismatch := by
  obtain ⟨ch', q, x, rfl⟩ := continuationFrame_of_length b hlong
  rw [take4_continuationFrame] at hne
  rw [parseContinuation_frame, if_pos (channelDiffers_of_bytes_ne hne)]

end Sys2Proof.Machine

open Sys2Proof Sys2Proof.Machine

/-- Settles O18: the three clauses are a short buffer, a frame of another channel, and a frame of the channel given or of any
channel when none is. -/
theorem decodeInitialTakesAFrameApart : Obligations.DecodeInitialTakesAFrameApart := by
  intro s f acc
  rw [exec_decodeInitial]
  refine ⟨fun hshort => ?_, fun ch hlong hacc hne => ?_, fun ch command h l chunk hf hacc => ?_⟩
  · rw [parseInitial_short f acc hshort, answer_error]
  · rw [hacc, parseInitial_otherChannel hlong hne, answer_error]
  · rw [hf, ← initialFrame_ube16, parseInitial_frame, channelDiffers_eq_false hacc, if_neg Bool.false_ne_true, answer_ok,
      ube16]

/-- Settles O19: as for `DECODE_INITIAL`, with a header of 5 bytes and the sequence byte returned unchecked. -/
theorem decodeContTakesAFrameApart : Obligations.DecodeContTakesAFrameApart := by
  intro s f acc
  rw [exec_decodeCont]
  refine ⟨fun hshort => ?_, fun ch hlong hacc hne => ?_, fun ch seq chunk hf hacc => ?_⟩
  · rw [parseContinuation_short f acc hshort, answer_error]
  · rw [hacc, parseContinuation_otherChannel hlong hne, answer_error]
  · have hframe : f = continuationFrame ch seq chunk := hf
    rw [hframe, parseContinuation_frame, channelDiffers_eq_false hacc, if_neg Bool.false_ne_true, answer_ok]

end

section
/-! PROOFS. The family 42_inbound_reassembler.md: short buffers (R169), the four tests of a continuation frame in the order of
R176, and the frame that completes a message (R174). -/

namespace Sys2Proof.Machine

/-- A notification is one received buffer (R166). -/
theorem exec_rxNotify (b : Bytes) (s : State) : exec (.rxNotify b) s = receive b s :=
  exec_of_deliveredBuffer _ b s rfl

/-- An error with an accumulator in progress drops the accumulator and its bytes, and reports (R168, R265). -/
@[simp] theorem raise_discardRx (e : BlockError) (s : State) :
    raise e s.discardRx = .next { s with
      rx := none, acc := [], result := .error e, outputs := s.outputs ++ [.error e] } := rfl

/-- With an accumulator, ACC holds exactly the bytes below the fill level (R66). -/
theorem length_rxBuf {s : State} {a : Accumulator} (hinv : RxInv s) (hrx : s.rx = some a) :
    (s.rxBuf a).length = a.fill.toNat := by
  simp only [RxInv, hrx] at hinv
  obtain ⟨haddrs, -, -⟩ := hinv
  refine Memory.length_readBytes s.acc 0 a.fill.toNat fun x _ hx => ?_
  rw [haddrs, List.mem_range]
  omega

/-- A whole header that begins with the bytes of a channel is a continuation frame of that channel (R92). -/
theorem continuationFrame_of_take4 {b : Bytes} {ch : ChannelId} (hlong : 5 ≤ b.length) (hch : b.take 4 = ch.bytes) :
    ∃ q x, b = continuationFrame ch q x := by
  obtain ⟨ch', q, x, rfl⟩ := continuationFrame_of_length b hlong
  rw [take4_continuationFrame, ChannelId.bytes_inj] at hch
  exact ⟨q, x, by rw [hch]⟩

/-! The outcomes of a continuation frame, in the order of its tests (R176). -/

section
variable {s : State} {a : Accumulator} {q : Byte} {x : Bytes} (hrx : s.rx = some a)
include hrx

/-- A whole header of another channel (R168). -/
theorem receive_otherChannel {b : Bytes} (hlong : 5 ≤ b.length) (hne : b.take 4 ≠ a.channel.bytes) :
    receive b s = raise .channelMismatch s.discardRx := by
  obtain ⟨ch, q, x, rfl⟩ := continuationFrame_of_length b hlong
  rw [take4_continuationFrame, ne_eq, ChannelId.bytes_inj] at hne
  rw [receive_continuationFrame _ _ _ _ _ hrx, if_pos hne]

/-- An unexpected sequence number, or any at the end of the sequence space (R171, R172). -/
theorem receive_outOfOrder (hseq : a.expectedSeq = 128#8 ∨ q ≠ a.expectedSeq) :
    receive (continuationFrame a.channel q x) s = raise .outOfOrderFrame s.discardRx := by
  rw [receive_continuationFrame _ _ _ _ _ hrx, if_neg (not_not_intro rfl), if_pos hseq]

/-- The frame expected next passes the tests of channel and sequence number: what is left is its length (R173 to R175). -/
theorem receive_expectedFrame (h128 : a.expectedSeq ≠ 128#8) :
    receive (continuationFrame a.channel a.expectedSeq x) s =
      if a.declaredLen.toNat < a.fill.toNat + x.length then raise .overlongMessage s.discardRx
      else if a.fill.toNat + x.length = a.declaredLen.toNat then
        finish .done ((s.emit (.messageReceived a.channel a.command (s.rxBuf a ++ x))).discardRx)
      else finish .done (s.appendRx a x) := by
  rw [receive_continuationFrame _ _ _ _ _ hrx, if_neg (not_not_intro rfl),
    if_neg (not_or.mpr ⟨h128, not_not_intro rfl⟩)]

end

end Sys2Proof.Machine

open Sys2Proof Sys2Proof.Machine

/-- Settles O25: the frame passes every test, and the invariant gives the length of the bytes accumulated before it. -/
theorem lastContinuationFrameCompletes : Obligations.LastContinuationFrameCompletes := by
  rintro s a chunk ⟨hinv, -⟩ hrx h128 hall
  refine ⟨s.rxBuf a ++ chunk, ?_, rfl, ?_⟩
  · have hframe : a.channel.bytes ++ a.expectedSeq :: chunk = continuationFrame a.channel a.expectedSeq chunk := rfl
    rw [exec_rxNotify, hframe, receive_expectedFrame hrx h128, if_neg hall.not_gt, if_pos hall]
    rfl
  · rw [List.length_append, length_rxBuf hinv hrx, hall]

/-- Settles O28, one case for each of the four tests; from the third on the buffer is a frame of the accumulator's channel. -/
theorem reassemblyErrorsInOrder : Obligations.ReassemblyErrorsInOrder := by
  rintro s a b e hrx (⟨hshort, rfl⟩ | ⟨hlong, hne, rfl⟩ | ⟨hlong, hch, hseq, rfl⟩ |
    ⟨hlong, hch, h128, hseq, hover, rfl⟩) <;> rw [exec_rxNotify]
  · rw [receive_short_some s a b hrx hshort, raise_discardRx]
  · rw [receive_otherChannel hrx hlong hne, raise_discardRx]
  · obtain ⟨q, x, rfl⟩ := continuationFrame_of_take4 hlong hch
    rw [get4_continuationFrame, ne_eq, Option.some_inj] at hseq
    rw [receive_outOfOrder hrx hseq, raise_discardRx]
  · obtain ⟨q, x, rfl⟩ := continuationFrame_of_take4 hlong hch
    rw [get4_continuationFrame, Option.some_inj] at hseq
    subst hseq
    rw [length_continuationFrame, Nat.add_sub_cancel_left] at hover
    rw [receive_expectedFrame hrx h128, if_pos hover, raise_discardRx]

/-- Settles O27: the length is tested first, and an accumulator in progress does not survive the error. -/
theorem shortBuffersRaiseFrameTooShort : Obligations.ShortBuffersRaiseFrameTooShort := by
  intro s b
  rw [exec_rxNotify]
  refine ⟨fun hrx hshort => ?_, fun hsome hshort => ?_⟩
  · rw [receive_short_none s b hrx hshort]
    rfl
  · obtain ⟨a, hrx⟩ := Option.isSome_iff_exists.mp hsome
    rw [receive_short_some s a b hrx hshort, raise_discardRx]

end

section
/-! PROOFS. The family 43_outbound_sequencer.md: starting a session by TX_START and SEND (R191, R192, R203), handing frames over
(R195), and counting confirmations (R198 to R201, R204). -/

namespace Sys2Proof.Machine

/-! Starting a session. -/

/-- `SessionBusy` while a session is `Pending` (R192). -/
theorem beginSession_of_pending {s : State} (hp : s.txStatus = .pending) (fs : List Bytes) (total : BitVec 16)
    (now : BitVec 32) :
    beginSession fs total now s = .next { s with
      result := .error .sessionBusy, outputs := s.outputs ++ [.error .sessionBusy] } :=
  if_pos hp

/-- The writes of an accepted start (R191). -/
theorem beginSession_of_not_pending {s : State} (hp : s.txStatus ≠ .pending) (fs : List Bytes) (total : BitVec 16)
    (now : BitVec 32) :
    beginSession fs total now s = .next { s with
      txStatus := .pending, txFifo := fs, txSubmitted := BitVec.ofNat 8 fs.length, txAcked := 0
      txStartTs := now, txTotalBytes := total, result := .done } :=
  if_neg hp

theorem exec_txStart_of_framesInDomain {fs : List Bytes} (hd : framesInDomain fs) (total : BitVec 16) (now : BitVec 32)
    (s : State) : exec (.txStart fs total now) s = beginSession fs total now s :=
  if_pos hd

theorem exec_send_of_cutMessage_ok {s : State} {c : Byte} {p : Bytes} {mtu : BitVec 16} {fs : List Bytes}
    (h : cutMessage s.channelId c p mtu = .ok fs) (now : BitVec 32) :
    exec (.send c p mtu now) s = beginSession fs (BitVec.ofNat 16 p.length) now s := by
  simp only [exec, execSend, h]

/-- A message that cannot be encoded is reported before the session is looked at (R203). -/
theorem exec_send_of_cutMessage_error {s : State} {c : Byte} {p : Bytes} {mtu : BitVec 16} {e : BlockError}
    (h : cutMessage s.channelId c p mtu = .error e) (now : BitVec 32) :
    exec (.send c p mtu now) s = .next { s with result := .error e, outputs := s.outputs ++ [.error e] } := by
  simp only [exec, execSend, h]
  rfl

/-- Below `MTU_MIN` or above `Lmax` no message can be encoded (R134, R140). -/
theorem cutMessage_error_of_not_encodable (ch : ChannelId) (c : Byte) {p : Bytes} {mtu : BitVec 16}
    (h : mtu.toNat < 8 ∨ min 65535 (129 * mtu.toNat - 647) < p.length) : ∃ e, cutMessage ch c p mtu = .error e := by
  obtain ⟨-, e⟩ | ⟨-, -, e⟩ | ⟨hmtu, hlen, -⟩ := cutMessage_cases ch c p mtu
  · exact ⟨_, e⟩
  · exact ⟨_, e⟩
  · omega

/-! Confirmations: the two conditions of R199, and the next state in each case. -/

/-- The condition to be counted as R199 writes it. -/
theorem State.counted_iff (s : State) :
    s.counted = true ↔
      (s.txStatus = .pending ∧ s.txAcked.toNat < s.txSubmitted.toNat - s.txFifo.length) ∨
      (s.txStatus = .failed ∧ s.txAcked.toNat < s.txSubmitted.toNat) := by
  have hhanded : s.handed = s.txSubmitted.toNat - s.txFifo.length := rfl
  cases hst : s.txStatus <;> simp [State.counted, hst, hhanded]

/-- An ignored confirmation leaves the block as it is (R199). -/
theorem exec_txConfirm_ignored {s : State} (hc : s.counted = false) (x : BitVec 8) (err : Bool) (now : BitVec 32) :
    exec (.txConfirm x err now) s = .next { s with inflight := s.inflight.erase x, result := .done } :=
  if_neg (Bool.eq_false_iff.mp hc)

section
variable {s : State} (hc : s.counted = true) (x : BitVec 8) (now : BitVec 32)
include hc

theorem exec_txConfirm_counted (err : Bool) :
    exec (.txConfirm x err now) s = afterCount x err now (s.delivered x).countAck :=
  if_pos hc

/-- The first error fails the session and drops what is still queued (R200). -/
theorem exec_txConfirm_error_of_pending (hp : s.txStatus = .pending) :
    exec (.txConfirm x true now) s = .next { s with
      inflight := s.inflight.erase x, txAcked := s.txAcked + 1, txStatus := .failed, txFifo := []
      result := .error (.writeFailed x), outputs := s.outputs ++ [.error (.writeFailed x)] } :=
  (exec_txConfirm_counted hc x now true).trans (if_pos hp)

/-- A later error only counts and is reported (R200). -/
theorem exec_txConfirm_error_of_failed (hf : s.txStatus = .failed) :
    exec (.txConfirm x true now) s = .next { s with
      inflight := s.inflight.erase x, txAcked := s.txAcked + 1
      result := .error (.writeFailed x), outputs := s.outputs ++ [.error (.writeFailed x)] } :=
  (exec_txConfirm_counted hc x now true).trans (if_neg (by simp [hf]))

/-- A counted success asks, of a `Pending` session, whether it is the last (R198). -/
theorem exec_txConfirm_success_of_pending (hp : s.txStatus = .pending) :
    exec (.txConfirm x false now) s =
      if s.txAcked + 1 = s.txSubmitted then complete now (s.delivered x).countAck
      else finish .done (s.delivered x).countAck :=
  (exec_txConfirm_counted hc x now false).trans (if_pos hp)

/-- A success that is not the last of a `Pending` session only counts (R198). -/
theorem exec_txConfirm_success_counts (hl : s.txStatus = .pending → s.txAcked + 1 ≠ s.txSubmitted) :
    exec (.txConfirm x false now) s = .next { s with
      inflight := s.inflight.erase x, txAcked := s.txAcked + 1, result := .done } := by
  by_cases hp : s.txStatus = .pending
  · exact (exec_txConfirm_success_of_pending hc x now hp).trans (if_neg (hl hp))
  · exact (exec_txConfirm_counted hc x now false).trans (if_neg hp)

/-- The success that makes `tx_acked` reach `tx_submitted` completes the session and latches the meter's result (R201). -/
theorem exec_txConfirm_success_completes (hp : s.txStatus = .pending) (hl : s.txAcked + 1 = s.txSubmitted)
    {m : MeterResult} (hm : meterOf s.txTotalBytes s.txStartTs now = m) :
    exec (.txConfirm x false now) s = .next { s with
      inflight := s.inflight.erase x, txAcked := s.txAcked + 1, txStatus := .completed
      mValid := true, mTotalBytes := some s.txTotalBytes, mElapsedMs := some m.elapsedMs
      mIndeterminate := some m.indeterminate, mRate := m.rate, result := .done
      outputs := s.outputs ++ [.transferCompleted s.txTotalBytes m.elapsedMs m.indeterminate m.rate] } := by
  subst hm
  exact (exec_txConfirm_success_of_pending hc x now hp).trans (if_pos hl)

end

/-- The meter's result, each part by itself (R220). -/
theorem meterOf_eq (total : BitVec 16) (start now : BitVec 32) :
    meterOf total start now = {
      elapsedMs := now - start
      indeterminate := if now - start = 0 then true else false
      rate := if now - start = 0 then none else some (BitVec.ofNat 32 (total.toNat * 1000 / (now - start).toNat)) } := by
  unfold meterOf
  split_ifs with h <;> simp [h]

/-- Only a `Pending` session becomes `Completed` (R201). -/
theorem pending_or_completed_of_exec {i : Instr} {s t : State} (h : exec i s = .next t) (ht : t.txStatus = .completed) :
    s.txStatus = .pending ∨ s.txStatus = .completed := by
  cases execStep_of_exec i s t h with
  | confirms hc =>
    cases hc with
    | completes hp => exact .inl hp
    | fails => cases ht
    | ignored | counts | late => exact .inr ht
  | receives _ _ hr => cases hr <;> exact .inr ht
  | disconnects | disconnectsIdle =>
    obtain ⟨hp, -⟩ | ⟨-, e⟩ := s.abortSession_cases
    · exact .inl hp
    · exact .inr (by simpa [e] using ht)
  | starts | sends | resets => cases ht
  | _ => exact .inr ht

end Sys2Proof.Machine

open Sys2Proof Sys2Proof.Machine

/-- Settles O35: both operations reach `beginSession`, which looks at the status first. -/
theorem startBeginsASessionOrIsBusy : Obligations.StartBeginsASessionOrIsBusy := by
  intro s now
  refine ⟨fun frames total hd hp => ?_, fun frames total hd hp => ?_, fun command p mtu hp hmtu hlen => ?_⟩
  · rw [exec_txStart_of_framesInDomain hd, beginSession_of_not_pending hp]
  · rw [exec_txStart_of_framesInDomain hd, beginSession_of_pending hp]
  · rw [exec_send_of_cutMessage_ok (cutMessage_ok _ _ _ _ hmtu hlen), beginSession_of_pending hp]

/-- Settles O45: one cut of the message gives ENCODE its frames and SEND its session, or both the same error. -/
theorem sendEncodesThenStarts : Obligations.SendEncodesThenStarts := by
  intro s command p mtu now
  refine ⟨fun hmtu hlen => ?_, fun hbad => ?_⟩
  · have hcut := cutMessage_ok s.channelId command p mtu hmtu hlen
    refine ⟨_, by rw [exec_encode, hcut, answer_ok], ?_, fun hp => ?_, fun hp => ?_⟩ <;>
      rw [exec_send_of_cutMessage_ok hcut]
    · rw [exec_txStart_of_framesInDomain (framesInDomain_of_cutMessage _ _ _ _ _ hcut)]
    · rw [beginSession_of_pending hp]
    · rw [beginSession_of_not_pending hp]
  · obtain ⟨e, hcut⟩ := cutMessage_error_of_not_encodable s.channelId command hbad
    exact ⟨e, by rw [exec_encode, hcut, answer_error], exec_send_of_cutMessage_error hcut now⟩

/-- Settles O37: the FIFO is not empty, so the step exists, and it takes the head. -/
theorem submitHandsOverTheHead : Obligations.SubmitHandsOverTheHead := by
  intro s f fs hfifo
  refine ⟨(s.popFrame fs).inflight, ?_⟩
  simp only [exec, execTxSubmit, hfifo]
  rfl

/-- Settles O39: every case of a counted confirmation advances the count; in each case of the second clause neither condition
of R199 holds. -/
theorem confirmationsAreCountedOrIgnored : Obligations.ConfirmationsAreCountedOrIgnored := by
  intro s index err now
  refine ⟨fun hcond => ?_, fun hcond => ⟨_, exec_txConfirm_ignored ?_ index err now⟩⟩
  · have hc := s.counted_iff.mpr hcond
    obtain ⟨t, ht, hstep⟩ := execTxConfirm_step index err now s
    refine ⟨t, ht, ?_⟩
    cases hstep with
    | ignored h => simp [hc] at h
    | fails | completes | counts | late => rfl
  · rw [Bool.eq_false_iff, ne_eq, s.counted_iff]
    obtain hidle | hcompleted | ⟨hp, hle⟩ | ⟨hf, hle⟩ := hcond
    · simp [hidle]
    · simp [hcompleted]
    · simp [hp, hle]
    · simp [hf, hle]

/-- Settles O41: with the FIFO empty every frame is handed over, so the confirmation is counted, and it is the last. -/
theorem lastConfirmationCompletes : Obligations.LastConfirmationCompletes := by
  rintro s index now hp hlast hfifo elapsed ind rate rfl rfl rfl
  have hc : s.counted = true := s.counted_iff.mpr (.inl ⟨hp, by simp [hfifo]; omega⟩)
  have hl : s.txAcked + 1 = s.txSubmitted := by bv_omega
  exact ⟨_, exec_txConfirm_success_completes hc index now hp hl (meterOf_eq _ _ _)⟩

/-- Settles O42: the three counted cases of an error or of a `Failed` session; a `Failed` session does not complete, so
no operation but RESET writes the meter's registers. -/
theorem failedConfirmationFailsTheSession : Obligations.FailedConfirmationFailsTheSession := by
  intro s index now
  refine ⟨fun hp hlt => ?_, fun hf hlt => ?_, fun i t hf h => ?_⟩
  · exact ⟨_, exec_txConfirm_error_of_pending (s.counted_iff.mpr (.inl ⟨hp, hlt⟩)) index now hp⟩
  · have hc := s.counted_iff.mpr (.inr ⟨hf, hlt⟩)
    exact ⟨_, exec_txConfirm_error_of_failed hc index now hf,
      exec_txConfirm_success_counts hc index now (by simp [hf])⟩
  · have hne : t.txStatus ≠ .completed := fun ht => by simpa [hf] using pending_or_completed_of_exec h ht
    refine ⟨hne, ?_⟩
    obtain hsame | ⟨hreset, -⟩ | hcompleted := meterRegistersAreWrittenOnlyByCompletion i s t h
    · exact .inr hsame
    · exact .inl hreset
    · obtain ⟨x, n, b, e, ind, r, hi, hst, ht, -⟩ := hcompleted
      exact absurd ht hne

/-- Settles O44: in each case the next state holds the index in `inflight` and, for an error counted, in what is reported. -/
theorem confirmIndexIsOnlyReported : Obligations.ConfirmIndexIsOnlyReported := by
  intro s x y err now
  simp only [← s.counted_iff]
  cases hc : s.counted with
  | false =>
    simp only [Bool.false_eq_true, and_false, if_false]
    exact ⟨_, _, exec_txConfirm_ignored hc x err now, exec_txConfirm_ignored hc y err now, rfl, rfl, rfl, nofun⟩
  | true =>
    cases err with
    | true =>
      simp only [and_self, if_true]
      obtain hp | hf := s.status_of_counted hc
      · exact ⟨_, _, exec_txConfirm_error_of_pending hc x now hp, exec_txConfirm_error_of_pending hc y now hp,
          rfl, rfl, rfl, rfl, rfl⟩
      · exact ⟨_, _, exec_txConfirm_error_of_failed hc x now hf, exec_txConfirm_error_of_failed hc y now hf,
          rfl, rfl, rfl, rfl, rfl⟩
    | false =>
      simp only [Bool.false_eq_true, false_and, if_false]
      by_cases hlast : s.txStatus = .pending ∧ s.txAcked + 1 = s.txSubmitted
      · obtain ⟨hp, hl⟩ := hlast
        exact ⟨_, _, exec_txConfirm_success_completes hc x now hp hl rfl,
          exec_txConfirm_success_completes hc y now hp hl rfl, rfl, rfl, rfl, nofun⟩
      · rw [not_and] at hlast
        exact ⟨_, _, exec_txConfirm_success_counts hc x now hlast, exec_txConfirm_success_counts hc y now hlast,
          rfl, rfl, rfl, nofun⟩

end

section
/-! PROOFS. The family 44_bandwidth_meter.md: the two results of METER (R220, R223), the range of its rate (R224), and its
elapsed time across a wrap of the clock (R221). -/

namespace Sys2Proof.Machine

/-- No time has passed: there is no rate, not even 0 (R223). -/
theorem meterOf_self (total : BitVec 16) (start : BitVec 32) : meterOf total start start = ⟨0, true, none⟩ :=
  if_pos (BitVec.sub_self start)

/-- Some time has passed: the rate is the rounded-down quotient (R220). -/
theorem meterOf_of_ne {start now : BitVec 32} (h : now ≠ start) (total : BitVec 16) :
    meterOf total start now =
      ⟨now - start, false, some (BitVec.ofNat 32 (total.toNat * 1000 / (now - start).toNat))⟩ :=
  if_neg (sub_ne_zero.mpr h)

/-- `total_bytes` has 16 bits, so no rate is above 65535000, whatever the divisor (R224). -/
theorem rate_le (total : BitVec 16) (elapsed : Nat) : total.toNat * 1000 / elapsed ≤ 65535000 :=
  calc total.toNat * 1000 / elapsed
    _ ≤ total.toNat * 1000 := Nat.div_le_self _ _
    _ ≤ 65535000 := by omega

/-- The 32-bit rate register holds the quotient itself (R224). -/
theorem toNat_ofNat_rate (total : BitVec 16) (elapsed : Nat) :
    (BitVec.ofNat 32 (total.toNat * 1000 / elapsed)).toNat = total.toNat * 1000 / elapsed := by
  rw [BitVec.toNat_ofNat, Nat.mod_eq_of_lt ((rate_le total elapsed).trans_lt (by decide))]

/-- A clock that has advanced by `d` from `start` differs from it by `d`, modulo 2^32 (R221). -/
theorem clock_advanced_sub (start : BitVec 32) (d : Nat) :
    BitVec.ofNat 32 (start.toNat + d) - start = BitVec.ofNat 32 d := by
  rw [BitVec.ofNat_add, BitVec.ofNat_toNat, BitVec.setWidth_eq, add_sub_cancel_left]

end Sys2Proof.Machine

open Sys2Proof Sys2Proof.Machine

/-- Settles O49, by the two cases of the meter; the rate fits its register, so its value is the quotient. -/
theorem meterResults : Obligations.MeterResults := by
  intro s total start now
  refine ⟨fun hsame => ?_, fun hne => ⟨_, ?_, toNat_ofNat_rate total _, ?_⟩⟩
  · rw [hsame, exec_meter, meterOf_self, answer_ok]
  · rw [exec_meter, meterOf_of_ne hne, answer_ok]
  · exact (toNat_ofNat_rate total _).trans_le (rate_le total _)

/-- Settles O50: the subtraction modulo 2^32 gives back the `d` the clock advanced by. -/
theorem elapsedTimeSurvivesTheWrap : Obligations.ElapsedTimeSurvivesTheWrap := by
  intro s total start d hd
  refine ⟨meterOf total start (BitVec.ofNat 32 (start.toNat + d)), by rw [exec_meter, answer_ok], ?_⟩
  obtain ⟨helapsed, -⟩ := meterOf_spec total start (BitVec.ofNat 32 (start.toNat + d))
  rw [helapsed, clock_advanced_sub, BitVec.toNat_ofNat, Nat.mod_eq_of_lt hd]

end

section
/-! PROOFS. The family 46_link_config_ops.md: the link's loss and the reassembler's timeout (R250, R251, R252), the channel of
the block (R253), and RESET (R254). -/

namespace Sys2Proof.Machine

/-! Abandoning a partial message (R250, R251). -/

theorem abandonRx_of_isSome {s : State} (h : s.rx.isSome) :
    abandonRx s = .next { s with
      rx := none, acc := [], result := .error .incompleteMessage, outputs := s.outputs ++ [.error .incompleteMessage] } :=
  (if_pos h).trans (raise_discardRx .incompleteMessage s)

theorem abandonRx_of_none {s : State} (h : s.rx = none) : abandonRx s = .next { s with result := .done } :=
  if_neg (by simp [State.rxActive, h])

theorem exec_rxTimeout (s : State) : exec .rxTimeout s = abandonRx s := rfl

/-! The send side of a disconnect (R250). -/

theorem exec_linkDisconnect_of_pending {s : State} (hp : s.txStatus = .pending) :
    exec .linkDisconnect s = abandonRx s.failSession :=
  congrArg abandonRx (if_pos hp)

theorem exec_linkDisconnect_of_not_pending {s : State} (hp : s.txStatus ≠ .pending) :
    exec .linkDisconnect s = abandonRx s :=
  congrArg abandonRx (if_neg hp)

/-! The channel (R253), RESET (R254), and runs that begin with an operation known to complete. -/

theorem exec_cfgSetChannel (ch : ChannelId) (s : State) :
    exec (.cfgSetChannel ch) s = .next { s with channelId := ch, result := .done } := rfl

theorem exec_reset (s : State) : exec .reset s = .next (s.resetBlock.setResult .done) := rfl

theorem runOps_cons_of_exec {i : Instr} {s u : State} (h : exec i s = .next u) (is : List Instr) :
    runOps (i :: is) s = runOps is u := by
  simp only [runOps, h]

theorem runOps_singleton (i : Instr) (s : State) : runOps [i] s = exec i s := by
  simp only [runOps]
  cases exec i s <;> rfl

end Sys2Proof.Machine

open Sys2Proof Sys2Proof.Machine

/-- Settles O10: the block's fields are those of the reset state, and the output stream is among what `resetBlock` keeps. -/
theorem resetOperation : Obligations.ResetOperation :=
  fun s => ⟨s.resetBlock.setResult .done, exec_reset s, by simp⟩

/-- Settles O33: RX_TIMEOUT does nothing but abandon the partial message. -/
theorem timeoutDiscardsThePartialMessage : Obligations.TimeoutDiscardsThePartialMessage :=
  fun s => ⟨fun hsome => (exec_rxTimeout s).trans (abandonRx_of_isSome hsome),
    fun hnone => (exec_rxTimeout s).trans (abandonRx_of_none hnone)⟩

/-- Settles O34: failing the session leaves `rx` alone, so each case of the send side meets each case of the receive side. -/
theorem disconnectAbortsBothSides : Obligations.DisconnectAbortsBothSides := by
  intro s
  refine ⟨fun hp hsome => ?_, fun hp hnone => ?_, fun hp hsome => ?_, fun hp hnone => ?_⟩
  · rw [exec_linkDisconnect_of_pending hp, abandonRx_of_isSome (s := s.failSession) hsome]
    rfl
  · rw [exec_linkDisconnect_of_pending hp, abandonRx_of_none (s := s.failSession) hnone]
    rfl
  · rw [exec_linkDisconnect_of_not_pending hp, abandonRx_of_isSome hsome]
  · rw [exec_linkDisconnect_of_not_pending hp, abandonRx_of_none hnone]

/-- Settles O52: an ENCODE right after CFG_SET_CHANNEL runs under the new channel, and its frames have the headers of R131. -/
theorem setChannelWritesOnlyChannelId : Obligations.SetChannelWritesOnlyChannelId := by
  intro s ch
  refine ⟨exec_cfgSetChannel ch s, fun command p mtu t fs hrun hfs => ?_⟩
  rw [runOps_cons_of_exec (exec_cfgSetChannel ch s), runOps_singleton] at hrun
  obtain ⟨hchannel, -⟩ := encodedHeaders _ t command p mtu fs hrun hfs
  exact hchannel

end

section
/-! PROOFS. The decoder on what the encoder writes (30_encoding.md R91 to R101 and the model's record layout, assumption log
entries 2 to 4), and the operation code of every record that decodes (R100). -/

namespace Sys2Proof

/-! Records of the command port. -/

/-- A record's operands are read by the operation code in bits 3..0 of its first byte (assumption log entry 4). -/
theorem decode_record (op : Byte) (bs : Bytes) : decode .command (op :: bs) = decodeOperands (op.toNat % 16) bs := rfl

/-- A record of `TX_START` inside its domain is read back: the number of frames, held less 1, fits its byte
(43_outbound_sequencer.md R194; assumption log entry 3). -/
theorem decode_encode_txStart (fs : List Bytes) (total : BitVec 16) (now : BitVec 32) (rest : Bytes)
    (hd : framesInDomain fs) :
    decode .command (encode (.txStart fs total now) ++ rest) = .ok (.txStart fs total now, rest) := by
  obtain ⟨⟨hpos, hmax⟩, hsizes⟩ := hd
  have hcount : (fs.length - 1) % 256 + 1 = fs.length := by
    rw [Nat.mod_eq_of_lt (by simp at hmax; omega), Nat.sub_add_cancel hpos]
  have hframes := readFrames_framesBytes fs rest hsizes
  simp [encode, decode_record, decodeOperands, hcount, hframes]

/-! Buffers on the wire. -/

theorem decodeWire_initialFrame (ch : ChannelId) (c : Byte) (len : BitVec 16) (x : Bytes) :
    decodeWire .initial (initialFrame ch c len x) = .frameInitial ch c len x := by
  simp [initialFrame, ChannelId.bytes, be16, decodeWire, ube16_be16]

theorem decodeWire_continuationFrame (ch : ChannelId) (q : Byte) (x : Bytes) :
    decodeWire .continuation (continuationFrame ch q x) = .frameContinuation ch q x := rfl

theorem decodeWire_infoReportFrame (ch : ChannelId) :
    decodeWire .infoReport (infoReportFrame ch) = .infoReport ch :=
  if_pos rfl

/-! The code of the operation a record decodes to. -/

/-- Every value the reader accepts has the property. -/
def Yields {α : Type} (P : α → Prop) (x : Read α) : Prop := ∀ a r, x = .ok (a, r) → P a

theorem Yields.ok {α : Type} {P : α → Prop} {a : α} {r : Bytes} (h : P a) : Yields P (.ok (a, r)) := by
  rintro _ _ ⟨⟩
  exact h

/-- What is accepted after a first reader is accepted by the second. -/
theorem Yields.andThen {α β : Type} {P : β → Prop} {x : Read α} {f : α → Bytes → Read β}
    (h : ∀ a r, Yields P (f a r)) : Yields P (andThen x f) := by
  intro b r hb
  obtain ⟨a, r', -, hf⟩ := andThen_eq_ok x f _ hb
  exact h a r' b r hf

open Machine in
/-- The operands that follow a code are those of the operation with that code (R100). -/
theorem decodeOperands_yields_code (code : Nat) (hcode : code < 16) (bs : Bytes) :
    Yields (fun i => operationCode i = some (BitVec.ofNat 4 code)) (decodeOperands code bs) :=
  match code with
  | 0x0 | 0x5 | 0x6 | 0x8 | 0xD | 0xE | 0xF => .ok rfl
  | 0x4 | 0xB => .andThen fun _ _ => .ok rfl
  | 0x2 | 0x3 => .andThen fun _ _ => .andThen fun _ _ => .ok rfl
  | 0x1 | 0x9 | 0xA => .andThen fun _ _ => .andThen fun _ _ => .andThen fun _ _ => .ok rfl
  | 0x7 | 0xC =>
    .andThen fun _ _ => .andThen fun _ _ => .andThen fun _ _ => .andThen fun _ _ => .ok rfl
  | n + 16 => absurd hcode (by omega)

/-- The low four bits of a byte, as a number and as bits. -/
theorem ofNat_mod_eq_extractLsb' (op : Byte) : BitVec.ofNat 4 (op.toNat % 16) = op.extractLsb' 0 4 := by
  apply BitVec.eq_of_toNat_eq
  simp [BitVec.extractLsb'_toNat]

end Sys2Proof

open Sys2Proof Sys2Proof.Machine

/-- Settles O1, by the cases of the instruction: each reader of the decoder takes what its writer wrote; a buffer on the wire is
read whole, so there nothing can follow it. -/
theorem decodeOfEncodeGivesBackTheInstruction : Obligations.DecodeOfEncodeGivesBackTheInstruction := by
  intro i rest hwf hport
  cases i with
  | encode c p mtu =>
    simp [Instr.port, encode, decode_record, decodeOperands, readBlob32_blob32 p rest hwf]
  | decodeInitial f ch =>
    simp [Instr.port, encode, decode_record, decodeOperands, readBlob16_blob16 f rest hwf]
  | decodeCont f ch =>
    simp [Instr.port, encode, decode_record, decodeOperands, readBlob16_blob16 f rest hwf]
  | rxNotify b =>
    simp [Instr.port, encode, decode_record, decodeOperands, readBlob16_blob16 b rest hwf]
  | txStart fs total now => exact decode_encode_txStart fs total now rest hwf
  | txConfirm x err now =>
    simp [Instr.port, encode, decode_record, decodeOperands]
  | meter total start now =>
    simp [Instr.port, encode, decode_record, decodeOperands]
  | send c p mtu now =>
    simp [Instr.port, encode, decode_record, decodeOperands, readBlob32_blob32 p rest hwf]
  | cfgSetChannel | rxTimeout | linkDisconnect | txSubmit | reset | reserved0 | reservedD | reservedE => rfl
  | frameInitial ch c len x =>
    obtain rfl := hport.resolve_left nofun
    simp [decode, Instr.port, encode, decodeWire_initialFrame]
  | frameContinuation ch q x =>
    obtain rfl := hport.resolve_left nofun
    simp [decode, Instr.port, encode, decodeWire_continuationFrame]
  | infoReport ch =>
    obtain rfl := hport.resolve_left nofun
    simp [decode, Instr.port, encode, decodeWire_infoReportFrame]

/-- Settles O2: the decoder evaluates on each record and frame. -/
theorem specBytesDecode : Obligations.SpecBytesDecode := by
  unfold Obligations.SpecBytesDecode
  decide

/-- Settles O3: whatever the operands are, the operation read is the one of the code. -/
theorem decodedOperationHasTheCodeOfItsRecord : Obligations.DecodedOperationHasTheCodeOfItsRecord := by
  intro op bs rest i hdec
  rw [← ofNat_mod_eq_extractLsb']
  exact decodeOperands_yields_code _ (Nat.mod_lt _ (by decide)) bs i rest hdec

end

section
/-! PROOFS. The step (20_memory.md R70), the host's reads of the register view (10_state.md R39), and frames on the wire
(20_memory.md R73). -/

namespace Sys2Proof.Machine

/-! What the next step does, one lemma per kind of what is presented. -/

theorem step_transaction {s : State} {port : Port} {bytes rest : Bytes} {later : List Presented} {i : Instr}
    (hport : s.port = .transaction port bytes :: later) (hdec : decode port bytes = .ok (i, rest)) :
    step s = exec i (s.setPort later) := by
  simp only [step, fetch, hport, hdec]

theorem step_rejected {s : State} {port : Port} {bytes : Bytes} {later : List Presented} {e : DecodeReject}
    (hport : s.port = .transaction port bytes :: later) (hdec : decode port bytes = .error e) :
    step s = .refused (.undecodable e) := by
  simp only [step, fetch, hport, hdec]

theorem step_readRegister {s : State} {n : Nat} {later : List Presented} (hport : s.port = .readRegister n :: later) :
    step s = readRegister n (s.setPort later) := by
  simp only [step, fetch, hport]

/-- The sequencer's internal step (43_outbound_sequencer.md R195). -/
theorem step_internal {s : State} {f : Bytes} {fs : List Bytes} (hport : s.port = []) (hfifo : s.txFifo = f :: fs) :
    step s = exec .txSubmit s := by
  simp [step, fetch, hport, hfifo]

theorem step_quiescent {s : State} (hport : s.port = []) (hfifo : s.txFifo = []) : step s = .next s := by
  simp [step, fetch, hport, hfifo]

/-- The state after the submission of `f`, with the frames `rest` still queued. -/
abbrev State.afterSubmit (s : State) (f : Bytes) (rest : List Bytes) : State :=
  ((s.popFrame rest).emit (.submit f)).setResult .done

theorem exec_txSubmit {s : State} {f : Bytes} {rest : List Bytes} (hfifo : s.txFifo = f :: rest) :
    exec .txSubmit s = .next (s.afterSubmit f rest) := by
  simp only [exec, execTxSubmit, hfifo]
  rfl

theorem State.handed_of_fifo_eq_cons {s : State} {f : Bytes} {rest : List Bytes} (hfifo : s.txFifo = f :: rest) :
    s.handed = s.txSubmitted.toNat - (rest.length + 1) := by
  rw [State.handed, State.level, hfifo, List.length_cons]

/-! Frames on the wire. -/

/-- A frame that arrives on the wire delivers its own bytes (assumption log entry 11). -/
theorem deliveredBuffer_of_wire {i : Instr} (h : i.port ≠ .command) : deliveredBuffer i = some (encode i) := by
  cases i with
  | frameInitial | frameContinuation | infoReport => rfl
  | _ => exact absurd rfl h

theorem exec_of_wire {i : Instr} (h : i.port ≠ .command) (s : State) : exec i s = receive (encode i) s :=
  exec_of_deliveredBuffer i _ s (deliveredBuffer_of_wire h)

/-! The register view: the registers that exist, and the fields of those put together from several. -/

/-- The value of register `n` at this read, its free bits drawn; 0 for a register that does not exist. -/
def registerView (s : State) (n : Nat) : BitVec 32 := (registerValue n s (Config.noValue s.draws n)).getD 0

theorem registerValue_of_le {n : Nat} (h : n ≤ 10) (s : State) (free : BitVec 32) :
    ∃ v, registerValue n s free = some v :=
  match n with
  | 0 | 1 | 2 | 3 | 4 | 5 | 6 | 7 | 8 | 9 | 10 => ⟨_, rfl⟩
  | n + 11 => absurd h (by omega)

theorem registerValue_of_lt {n : Nat} (h : 10 < n) (s : State) (free : BitVec 32) : registerValue n s free = none :=
  match n with
  | 0 | 1 | 2 | 3 | 4 | 5 | 6 | 7 | 8 | 9 | 10 => absurd h (by omega)
  | _ + 11 => rfl

theorem readRegister_of_le {n : Nat} (h : n ≤ 10) (s : State) :
    readRegister n s = .next { s with draws := s.draws + 1, result := .register (registerView s n) } := by
  obtain ⟨v, hv⟩ := registerValue_of_le h s (Config.noValue s.draws n)
  simp only [readRegister, registerView, hv]
  rfl

theorem readRegister_of_lt {n : Nat} (h : 10 < n) (s : State) : readRegister n s = .refused (.noSuchRegister n) := by
  simp only [readRegister, registerValue_of_lt h]

/-- The four bytes of a channel register in wire order. -/
theorem extract_channelRegister (c : ChannelId) :
    (channelRegister c).extractLsb' 24 8 = c.b0 ∧ (channelRegister c).extractLsb' 16 8 = c.b1 ∧
    (channelRegister c).extractLsb' 8 8 = c.b2 ∧ (channelRegister c).extractLsb' 0 8 = c.b3 :=
  extract_ube32 c.b0 c.b1 c.b2 c.b3

/-- The fields of register 1; the value of `m_indeterminate`, or a free bit, stands in bit 4. -/
theorem extract_statusRegister (s : State) (free : BitVec 32) :
    (statusRegister s free).extractLsb' 0 2 = s.txStatus.code ∧
    (statusRegister s free).getLsbD 2 = s.rx.isSome ∧ (statusRegister s free).getLsbD 3 = s.mValid ∧
    (statusRegister s free).getLsbD 4 = s.mIndeterminate.getD (free.getLsbD 4) ∧
    (statusRegister s free).extractLsb' 5 27 = 0 := by
  simp only [statusRegister, State.rxActive]
  cases s.txStatus <;> cases s.rx.isSome <;> cases s.mValid <;> cases s.mIndeterminate.getD (free.getLsbD 4) <;> decide

/-- The fields of register 8 while an accumulator is in progress. -/
theorem extract_rxInfoRegister {s : State} {a : Accumulator} (hrx : s.rx = some a) (free : BitVec 32) :
    (rxInfoRegister s free).extractLsb' 0 16 = a.declaredLen ∧
    (rxInfoRegister s free).extractLsb' 16 8 = a.expectedSeq ∧
    (rxInfoRegister s free).extractLsb' 24 8 = a.command := by
  have := a.command.isLt
  have := a.expectedSeq.isLt
  have := a.declaredLen.isLt
  simp only [rxInfoRegister, hrx]
  refine ⟨?_, ?_, ?_⟩ <;> apply BitVec.eq_of_toNat_eq <;>
    simp [BitVec.extractLsb'_toNat, Nat.shiftRight_eq_div_pow] <;> omega

end Sys2Proof.Machine

open Sys2Proof Sys2Proof.Machine

/-- Settles O5: the fetch takes the head of the port and leaves the rest of it. -/
theorem stepRunsTheDecodedOperation : Obligations.StepRunsTheDecodedOperation :=
  fun _ _ _ _ _ _ hport hdec => step_transaction hport hdec

/-- Settles O6: the internal step is a TX_SUBMIT, and the frame's index is the number of frames handed over before it. -/
theorem stepWithNothingPresented : Obligations.StepWithNothingPresented := by
  refine ⟨fun s f fs hport hfifo => ?_, fun s hport hfifo => step_quiescent hport hfifo⟩
  rw [step_internal hport hfifo, exec_txSubmit hfifo, ← State.handed_of_fifo_eq_cons hfifo]
  rfl

/-- Settles O7: a register exists exactly when its number is at most 10. -/
theorem registerReadChangesNothing : Obligations.RegisterReadChangesNothing := by
  intro s n later hport
  rw [step_readRegister hport]
  exact ⟨fun hn => ⟨_, readRegister_of_le hn _⟩, fun hn => readRegister_of_lt hn _⟩

/-- Settles O8: the view at this read; each register is one field, or is put together from several that its bits give back. -/
theorem registerViewShowsEveryField : Obligations.RegisterViewShowsEveryField := by
  intro s
  obtain ⟨hstatus, hactive, hvalid, hind, hzero⟩ := extract_statusRegister s (Config.noValue s.draws 1)
  obtain ⟨h24, h16, h8, h0⟩ := extract_ube32 0 (BitVec.ofNat 8 s.level) s.txAcked s.txSubmitted
  refine ⟨registerView s, fun n hn => readRegister_of_le hn s, extract_channelRegister s.channelId,
    ⟨?_, hactive, hvalid, fun b hb => ?_, hzero⟩, ⟨h0, h8, h16, h24⟩, rfl, extract_setWidth s.txTotalBytes,
    fun b hb => ?_, (extract_setWidth _).2, fun e he => ?_, fun r hr => ?_, fun a ha => ?_, (extract_setWidth _).2⟩
  · refine hstatus.trans ?_
    cases s.txStatus <;> rfl
  · refine hind.trans ?_
    rw [hb, Option.getD_some]
  · obtain ⟨hlow, -⟩ := extract_setWidth (s.mTotalBytes.getD ((Config.noValue s.draws 5).setWidth 16))
    refine hlow.trans ?_
    rw [hb, Option.getD_some]
  · show s.mElapsedMs.getD _ = e
    rw [he, Option.getD_some]
  · show s.mRate.getD _ = r
    rw [hr, Option.getD_some]
  · obtain ⟨hlen, hseq, hcommand⟩ := extract_rxInfoRegister ha (Config.noValue s.draws 8)
    have hfill : registerView s 9 = a.fill.setWidth 32 := by simp [registerView, registerValue, ha]
    have hchannel : registerView s 10 = channelRegister a.channel := by simp [registerView, registerValue, ha]
    rw [hfill, hchannel]
    exact ⟨hlen, hseq, hcommand, (extract_setWidth a.fill).1, extract_channelRegister a.channel⟩

/-- Settles O20: both are the same received buffer, and receiving completes in every state. -/
theorem arrivingFramesAreNotifications : Obligations.ArrivingFramesAreNotifications := by
  intro i s hwire
  obtain ⟨t, ht, -⟩ := receive_step (encode i) s
  exact ⟨t, (exec_of_wire hwire s).trans ht, (exec_rxNotify (encode i) s).trans ht⟩

/-- Settles O60: whatever instruction the label makes of the buffer, it receives the buffer. -/
theorem wireBuffersAreNotifications : Obligations.WireBuffersAreNotifications := by
  intro s shape buffer later hport
  obtain ⟨t, ht, -⟩ := receive_step buffer (s.setPort later)
  refine ⟨t, ?_, (exec_rxNotify buffer _).trans ht⟩
  rw [step_transaction hport rfl, exec_decodeWire, ht]

/-- Settles O26: the report is an initial frame whose chunk begins with its one byte of payload. -/
theorem infoReportYieldsItsOneByte : Obligations.InfoReportYieldsItsOneByte := by
  intro s ch
  refine ⟨⟨rfl, rfl⟩, rfl, fun hrx => ?_⟩
  rw [exec_of_deliveredBuffer (.infoReport ch) _ s rfl, infoReportFrame_eq, receive_initialFrame _ _ _ _ _ hrx]
  rfl

end

section
/-! PROOFS. The lengths of the frames ENCODE makes (40_frame_encoder.md R134 to R136), and the domain of TX_START
(43_outbound_sequencer.md R194). -/

namespace Sys2Proof.Machine

/-! The length of continuation frame `k` (R130). -/

theorem length_continuationAt (ch : ChannelId) (p : Bytes) (mtu : BitVec 16) (k : Nat) :
    (continuationAt ch p mtu k).length =
      5 + min (mtu.toNat - 5) (p.length - (mtu.toNat - 7 + k * (mtu.toNat - 5))) := by
  rw [continuationAt_eq, length_continuationFrame, List.length_take, List.length_drop]

/-- The last continuation frame has a byte to carry, so every one has, and every one before the last is full. -/
theorem continuationAt_bounds {p : Bytes} {mtu : BitVec 16} {k : Nat} (h : 8 ≤ mtu.toNat)
    (hk : k < continuationsNeeded mtu p.length) :
    mtu.toNat - 7 + k * (mtu.toNat - 5) < p.length ∧
    (k + 1 < continuationsNeeded mtu p.length → mtu.toNat - 7 + (k + 1) * (mtu.toNat - 5) < p.length) := by
  have hlong : mtu.toNat - 7 < p.length := by
    by_contra hshort
    rw [continuationsNeeded_short mtu p.length (by omega)] at hk
    omega
  obtain ⟨-, hlast, -⟩ := continuationsNeeded_bounds mtu h p.length hlong
  have hoffset : ∀ j, j ≤ continuationsNeeded mtu p.length - 1 → mtu.toNat - 7 + j * (mtu.toNat - 5) < p.length :=
    fun j hj => (Nat.add_le_add_left (Nat.mul_le_mul_right _ hj) _).trans_lt hlast
  exact ⟨hoffset k (by omega), fun hk1 => hoffset (k + 1) (by omega)⟩

/-- The first `n` continuation frames carry the bytes after the initial chunk, as far as `n` full chunks reach. -/
theorem sum_length_continuationAt (ch : ChannelId) (p : Bytes) (mtu : BitVec 16) (n : Nat) :
    (((List.range n).map (continuationAt ch p mtu)).map List.length).sum =
      5 * n + min (n * (mtu.toNat - 5)) (p.length - (mtu.toNat - 7)) := by
  induction n with
  | zero => simp
  | succ n ih =>
    rw [List.range_succ, List.map_append, List.map_append, List.sum_append, ih, List.map_singleton, List.map_singleton,
      List.sum_singleton, length_continuationAt, Nat.add_one_mul n]
    omega

/-- The closed form of R134: an ENCODE of at most `Lmax` bytes returns its frames and changes nothing else. -/
theorem exec_encode_of_le {mtu : BitVec 16} {p : Bytes} (hmtu : 8 ≤ mtu.toNat)
    (hlen : p.length ≤ min 65535 (129 * mtu.toNat - 647)) (c : Byte) (s : State) :
    exec (.encode c p mtu) s = .next { s with
      result := .frames (initialFrame s.channelId c (BitVec.ofNat 16 p.length) (p.take (mtu.toNat - 7))
        :: (List.range (continuationsNeeded mtu p.length)).map (continuationAt s.channelId p mtu)) } := by
  rw [exec_encode, cutMessage_ok _ _ _ _ hmtu hlen, answer_ok]

/-- The list a successful ENCODE returns is in the domain of TX_START (R194). -/
theorem framesInDomain_of_exec_encode {s t : State} {c : Byte} {p : Bytes} {mtu : BitVec 16} {fs : List Bytes}
    (h : exec (.encode c p mtu) s = .next t) (ht : t.result = .frames fs) : framesInDomain fs := by
  obtain ⟨hmtu, hlen, rfl⟩ := frames_of_exec_encode h ht
  exact framesInDomain_of_cutMessage _ _ _ _ _ (cutMessage_ok s.channelId c p mtu hmtu hlen)

theorem exec_txStart_outsideDomain {fs : List Bytes} (hd : ¬framesInDomain fs) (total : BitVec 16) (now : BitVec 32)
    (s : State) : exec (.txStart fs total now) s = .refused .txStartOutsideDomain :=
  if_neg hd

/-- `beginSession` completes in every state, with `SessionBusy` while one is `Pending` (R192). -/
theorem beginSession_completes (fs : List Bytes) (total : BitVec 16) (now : BitVec 32) (s : State) :
    ∃ t, beginSession fs total now s = .next t := by
  by_cases hp : s.txStatus = .pending
  · exact ⟨_, beginSession_of_pending hp fs total now⟩
  · exact ⟨_, beginSession_of_not_pending hp fs total now⟩

end Sys2Proof.Machine

open Sys2Proof Sys2Proof.Machine

/-- Settles O12: a returned list shows that the bounds were met, and within them ENCODE returns one. -/
theorem encodeSucceedsExactlyUpToLmax : Obligations.EncodeSucceedsExactlyUpToLmax := by
  intro s command p mtu
  constructor
  · rintro ⟨fs, h⟩
    obtain ⟨hmtu, hlen, -⟩ := frames_of_exec_encode h rfl
    exact ⟨hmtu, hlen⟩
  · rintro ⟨hmtu, hlen⟩
    exact ⟨_, exec_encode_of_le hmtu hlen command s⟩

/-- Settles O13: the initial frame is full as soon as a continuation follows, and a continuation as soon as another does. -/
theorem encodedFramesFitTheMtu : Obligations.EncodedFramesFitTheMtu := by
  intro s t command p mtu fs h ht
  obtain ⟨hmtu, -, rfl⟩ := frames_of_exec_encode h ht
  refine ⟨fun f hf => ?_, fun k f hf hk => ?_⟩
  · obtain rfl | ⟨k, -, rfl⟩ := by simpa only [List.mem_cons, List.mem_map] using hf
    · rw [length_initialFrame, List.length_take]
      omega
    · rw [length_continuationAt]
      omega
  · simp only [List.length_cons, List.length_map, List.length_range] at hk
    cases k with
    | zero =>
      obtain rfl := Option.some.inj hf
      have hneeded : 0 < continuationsNeeded mtu p.length := by omega
      obtain ⟨hbytes, -⟩ := continuationAt_bounds hmtu hneeded
      rw [length_initialFrame, List.length_take]
      omega
    | succ k =>
      obtain ⟨hk', rfl⟩ : k < continuationsNeeded mtu p.length ∧ continuationAt s.channelId p mtu k = f := by
        simpa [List.getElem?_eq_some_iff] using hf
      obtain ⟨-, hnext⟩ := continuationAt_bounds hmtu hk'
      have hfull := hnext (by omega)
      rw [Nat.add_one_mul k] at hfull
      rw [length_continuationAt]
      omega

/-- Settles O15: the continuations carry what the initial frame leaves, each at least one byte of it. -/
theorem encodedFrameCount : Obligations.EncodedFrameCount := by
  intro s t command p mtu fs h ht
  obtain ⟨hmtu, hlen, rfl⟩ := frames_of_exec_encode h ht
  refine ⟨continuationsNeeded mtu p.length, by simp, (continuationsNeeded_le_iff mtu hmtu _).mpr (by omega), rfl, ?_,
    fun k f hf => ?_⟩
  · rw [List.map_cons, List.sum_cons, sum_length_continuationAt, length_initialFrame, List.length_take]
    by_cases hfits : p.length ≤ mtu.toNat - 7
    · rw [continuationsNeeded_short mtu _ hfits]
      omega
    · obtain ⟨-, -, hall⟩ := continuationsNeeded_bounds mtu hmtu p.length (by omega)
      omega
  · obtain ⟨hk, rfl⟩ : k < continuationsNeeded mtu p.length ∧ continuationAt s.channelId p mtu k = f := by
      simpa [List.getElem?_eq_some_iff] using hf
    obtain ⟨hbytes, -⟩ := continuationAt_bounds hmtu hk
    rw [length_continuationAt]
    omega

/-- Settles O36: TX_START tests its domain before the session's status. -/
theorem domainOfStart : Obligations.DomainOfStart := by
  intro s frames total now
  refine ⟨fun hout => exec_txStart_outsideDomain ?_ total now s, fun hpos hmax hsizes => ?_, fun command p mtu h => ?_⟩
  · rintro ⟨⟨hpos, hmax⟩, hsizes⟩
    obtain hempty | hmany | ⟨f, hf, hsize⟩ := hout
    · omega
    · exact absurd hmax (Nat.not_le.mpr hmany)
    · have := hsizes f hf
      omega
  · rw [exec_txStart_of_framesInDomain ⟨⟨hpos, hmax⟩, hsizes⟩]
    exact beginSession_completes frames total now s
  · obtain ⟨⟨hpos, hmax⟩, hsizes⟩ := framesInDomain_of_exec_encode h rfl
    exact ⟨hpos, hmax, hsizes⟩

end

section
/-! PROOFS. The reassembler frame by frame (42_inbound_reassembler.md): starting, extending and completing a message (R167, R170,
R173, R174), the end of the sequence space (R172), the length of every message (R177), and who changes `rx` (R180). -/

namespace Sys2Proof.Machine

/-! An initial frame, and the continuation frame expected next: the next state in each case. -/

section
variable {s : State} (hrx : s.rx = none) (ch : ChannelId) (c : Byte) {len : BitVec 16} {x : Bytes}
include hrx

/-- A message that fits its initial frame (R167). -/
theorem receive_initial_completes (hfits : len.toNat ≤ x.length) :
    receive (initialFrame ch c len x) s = .next { s with
      result := .done, outputs := s.outputs ++ [.messageReceived ch c (x.take len.toNat)] } :=
  (receive_initialFrame s ch c len x hrx).trans (if_pos hfits)

/-- A message that goes on after its initial frame (R170). -/
theorem receive_initial_starts (hlong : x.length < len.toNat) :
    receive (initialFrame ch c len x) s = .next { s with
      rx := some { channel := ch, command := c, declaredLen := len, fill := BitVec.ofNat 16 x.length, expectedSeq := 0 }
      acc := Memory.writeBytes [] 0 x
      result := .done } :=
  (receive_initialFrame s ch c len x hrx).trans (if_neg (Nat.not_le.mpr hlong))

end

section
variable {s : State} {a : Accumulator} {x : Bytes} (hrx : s.rx = some a) (h128 : a.expectedSeq ≠ 128#8)
include hrx h128

/-- The expected frame, the message staying incomplete (R173). -/
theorem receive_expected_appends (hshort : a.fill.toNat + x.length < a.declaredLen.toNat) :
    receive (continuationFrame a.channel a.expectedSeq x) s = .next { s with
      rx := some { a with fill := BitVec.ofNat 16 (a.fill.toNat + x.length), expectedSeq := a.expectedSeq + 1 }
      acc := Memory.writeBytes s.acc a.fill.toNat x
      result := .done } := by
  rw [receive_expectedFrame hrx h128, if_neg hshort.not_gt, if_neg hshort.ne]
  rfl

/-- The expected frame, with more bytes than are declared (R175). -/
theorem receive_expected_overlong (hover : a.declaredLen.toNat < a.fill.toNat + x.length) :
    receive (continuationFrame a.channel a.expectedSeq x) s = raise .overlongMessage s.discardRx := by
  rw [receive_expectedFrame hrx h128, if_pos hover]

/-- The expected frame, the message now complete (R174). -/
theorem receive_expected_completes (hall : a.fill.toNat + x.length = a.declaredLen.toNat) :
    receive (continuationFrame a.channel a.expectedSeq x) s = .next { s with
      rx := none, acc := [], result := .done
      outputs := s.outputs ++ [.messageReceived a.channel a.command (Memory.readBytes s.acc 0 a.fill.toNat ++ x)] } := by
  rw [receive_expectedFrame hrx h128, if_neg hall.not_gt, if_pos hall]
  rfl

end

/-- An accumulator in progress lacks bytes and expects a number of at most 128 (R28, R29). -/
theorem rxInv_some {s : State} {a : Accumulator} (hinv : RxInv s) (hrx : s.rx = some a) :
    s.acc.map Prod.fst = List.range a.fill.toNat ∧ a.fill.toNat < a.declaredLen.toNat ∧ a.expectedSeq.toNat ≤ 128 := by
  simpa only [RxInv, hrx] using hinv

/-! The length of a message (R177). -/

/-- A message that completes at once has the length its header declares. -/
theorem length_payload_of_receive_none {s t : State} {b : Bytes} {ch : ChannelId} {c : Byte} {p : Bytes}
    (hrx : s.rx = none) (h : receive b s = .next t) (hout : t.outputs = s.outputs ++ [.messageReceived ch c p]) :
    ∃ hi lo : Byte, b[5]? = some hi ∧ b[6]? = some lo ∧ p.length = 256 * hi.toNat + lo.toNat := by
  obtain hshort | hlong := Nat.lt_or_ge b.length 7
  · rw [receive_short_none s b hrx hshort] at h
    cases h
    simp at hout
  · obtain ⟨ch', c', len, x, rfl, hi, lo, hhi, hlo, hlen⟩ := initialFrame_of_length b hlong
    obtain hmore | hfits := Nat.lt_or_ge x.length len.toNat
    · rw [receive_initial_starts hrx ch' c' hmore] at h
      cases h
      simp at hout
    · rw [receive_initial_completes hrx ch' c' hfits] at h
      cases h
      obtain ⟨-, -, rfl⟩ := Output.messageReceived.inj (List.singleton_inj.mp (List.append_cancel_left hout))
      exact ⟨hi, lo, hhi, hlo, by rw [List.length_take, min_eq_left hfits, hlen]⟩

/-- A message that completes an accumulator has the length the accumulator declares. -/
theorem length_payload_of_receive_some {s t : State} {a : Accumulator} {b : Bytes} {ch : ChannelId} {c : Byte} {p : Bytes}
    (hinv : RxInv s) (hrx : s.rx = some a) (h : receive b s = .next t)
    (hout : t.outputs = s.outputs ++ [.messageReceived ch c p]) : p.length = a.declaredLen.toNat := by
  obtain ⟨u, hu, hstep⟩ := receive_step b s
  obtain rfl : u = t := by simpa [hu] using h
  cases hstep with
  | error e hs | start f hs | atOnce ch' c' p' hs => simp [hrx] at hs
  | discard => simp at hout
  | append => simp at hout
  | complete a' x hs hall =>
    obtain rfl : a' = a := by simpa [hs] using hrx
    obtain ⟨-, -, rfl⟩ := Output.messageReceived.inj (List.singleton_inj.mp (List.append_cancel_left hout))
    rw [List.length_append, length_rxBuf hinv hrx, hall]

/-! Who changes `rx` and ACC (R180). -/

/-- The accumulator and space ACC hold in `t` what they hold in `s`. -/
abbrev SameRx (s t : State) : Prop := t.rx = s.rx ∧ t.acc = s.acc

theorem ConfirmStep.sameRx {s t : State} {x : BitVec 8} {err : Bool} {now : BitVec 32} (h : ConfirmStep s x err now t) :
    SameRx s t := by
  cases h <;> simp [SameRx]

/-- A buffer delivered is the work of an operation of R180's list. -/
theorem mayChangeRx_of_deliveredBuffer {i : Instr} {b : Bytes} (h : deliveredBuffer i = some b) : mayChangeRx i = true := by
  cases i with
  | rxNotify | frameInitial | frameContinuation | infoReport => rfl
  | _ => cases h

/-! How an accumulator that goes on living changes (R25 to R29). -/

/-- From `a` to `b` nothing changes, or one continuation frame was accepted. -/
abbrev Accumulator.GoesOn (a b : Accumulator) : Prop :=
  b.channel = a.channel ∧ b.command = a.command ∧ b.declaredLen = a.declaredLen ∧
    ((b.fill = a.fill ∧ b.expectedSeq = a.expectedSeq) ∨
      (a.fill.toNat ≤ b.fill.toNat ∧ b.expectedSeq = a.expectedSeq + 1))

theorem Accumulator.goesOn_of_same {s t : State} {a b : Accumulator} (hsame : t.rx = s.rx) (ha : s.rx = some a)
    (hb : t.rx = some b) : a.GoesOn b := by
  obtain rfl : a = b := by rw [hsame, ha] at hb; exact Option.some.inj hb
  exact ⟨rfl, rfl, rfl, .inl ⟨rfl, rfl⟩⟩

theorem ReceiveStep.goesOn {s t : State} {a b : Accumulator} (h : ReceiveStep s t) (ha : s.rx = some a)
    (hb : t.rx = some b) : a.GoesOn b := by
  cases h with
  | error e hs | start f hs | atOnce ch c p hs => simp [ha] at hs
  | discard | complete => cases hb
  | append a' x hs _ hl =>
    obtain rfl : a' = a := by simpa [hs] using ha
    cases hb
    refine ⟨rfl, rfl, rfl, .inr ⟨?_, rfl⟩⟩
    rw [BitVec.toNat_ofNat, Nat.mod_eq_of_lt (hl.trans a'.declaredLen.isLt)]
    exact Nat.le_add_right ..

end Sys2Proof.Machine

open Sys2Proof Sys2Proof.Machine

/-- Settles O23: the chunk is written to an empty ACC, so what ACC then reads is the chunk. -/
theorem initialFrameStartsOrCompletesAMessage : Obligations.InitialFrameStartsOrCompletesAMessage := by
  intro s ch command h l chunk len hrx hlen
  obtain rfl : len = ube16 h l := BitVec.eq_of_toNat_eq (by rw [hlen, toNat_ube16])
  rw [exec_rxNotify, ← initialFrame_ube16]
  refine ⟨fun hfits => receive_initial_completes hrx ch command hfits, fun hlong =>
    ⟨_, receive_initial_starts hrx ch command hlong, ?_, Memory.readBytes_fresh chunk, fun x => ?_⟩⟩
  · refine Memory.writeBytes_wf [] ⟨List.Pairwise.nil, nofun⟩ 0 chunk ?_
    have := (ube16 h l).isLt
    simp only [Config.accCap]
    omega
  · rw [Memory.read_writeBytes [] (by simp)]
    split_ifs with hx
    · rfl
    · rw [Memory.read_nil, List.getElem?_eq_none (by omega)]

/-- Settles O21: the arrival is the notification of an initial frame. -/
theorem arrivingInitialFrameStartsOrCompletes : Obligations.ArrivingInitialFrameStartsOrCompletes := by
  intro s ch command len chunk hrx
  rw [exec_of_deliveredBuffer (.frameInitial ch command len chunk) _ s rfl]
  exact ⟨fun hfits => receive_initial_completes hrx ch command hfits,
    fun hlong => ⟨_, receive_initial_starts hrx ch command hlong, Memory.readBytes_fresh chunk⟩⟩

/-- Settles O24: the chunk is written at the fill level, above every byte stored before. -/
theorem continuationFrameIsAppended : Obligations.ContinuationFrameIsAppended := by
  rintro s a chunk ⟨-, -, -, hrising, -⟩ hrx h128 hshort
  rw [exec_rxNotify]
  exact ⟨_, receive_expected_appends hrx h128 hshort, Memory.readBytes_append s.acc hrising a.fill.toNat chunk,
    Memory.read_writeBytes s.acc hrising a.fill.toNat chunk⟩

/-- Settles O22: the arrival is the notification of the continuation frame expected next. -/
theorem arrivingContinuationFrameExtendsOrCompletes : Obligations.ArrivingContinuationFrameExtendsOrCompletes := by
  rintro s a chunk ⟨-, -, -, hrising, -⟩ hrx h128
  rw [exec_of_deliveredBuffer (.frameContinuation a.channel a.expectedSeq chunk) _ s rfl]
  exact ⟨fun hshort => ⟨_, receive_expected_appends hrx h128 hshort,
      Memory.readBytes_append s.acc hrising a.fill.toNat chunk⟩,
    fun hall => receive_expected_completes hrx h128 hall⟩

/-- Settles O29: in a state of the invariant a number of 128 or more is either not the expected one, or that one is 128. -/
theorem sequenceSpaceEndsAt128 : Obligations.SequenceSpaceEndsAt128 := by
  intro s a b v hrx hch hv hend
  obtain ⟨hlong, -⟩ := List.getElem?_eq_some_iff.mp hv
  obtain ⟨q, x, rfl⟩ := continuationFrame_of_take4 hlong hch
  obtain rfl : q = v := by simpa using hv
  have hseq : a.expectedSeq = 128#8 ∨ q ≠ a.expectedSeq := by
    obtain h128 | ⟨⟨hinv, -⟩, hq⟩ := hend
    · exact .inl h128
    · obtain ⟨-, -, hmax⟩ := rxInv_some hinv hrx
      by_cases hne : q = a.expectedSeq
      · subst hne
        exact .inl (BitVec.eq_of_toNat_eq (le_antisymm hmax hq))
      · exact .inr hne
  rw [exec_rxNotify, receive_outOfOrder hrx hseq, raise_discardRx]

/-- Settles O30: a message comes from an initial frame that holds all of it, or completes an accumulator. -/
theorem messagesHaveTheDeclaredLength : Obligations.MessagesHaveTheDeclaredLength := by
  rintro s t b ch command p ⟨hinv, -⟩ h hout
  rw [exec_rxNotify] at h
  exact ⟨fun hrx => length_payload_of_receive_none hrx h hout,
    fun a hrx => length_payload_of_receive_some hinv hrx h hout⟩

/-- Settles O31, by the cases of `ExecStep`: the operations that reach `rx` are those of R180's list. -/
theorem onlyReceiveOperationsChangeRx : Obligations.OnlyReceiveOperationsChangeRx := by
  intro i s t h hkind
  cases execStep_of_exec i s t h with
  | receives hi => simp [mayChangeRx_of_deliveredBuffer hi] at hkind
  | timesOut | timesOutIdle | disconnects | disconnectsIdle | resets => cases hkind
  | confirms hc => exact hc.sameRx
  | _ => exact ⟨rfl, rfl⟩

/-- Settles O32: of the operations that reach `rx`, only an accepted continuation frame leaves another accumulator behind. -/
theorem livingAccumulatorKeepsItsHeader : Obligations.LivingAccumulatorKeepsItsHeader := by
  intro i s t a b h ha hb
  cases execStep_of_exec i s t h with
  | receives _ _ hr => exact hr.goesOn ha hb
  | timesOut | disconnects | resets => cases hb
  | disconnectsIdle hnone => simp [ha] at hnone
  | confirms hc => exact Accumulator.goesOn_of_same hc.sameRx.1 ha hb
  | _ => exact Accumulator.goesOn_of_same rfl ha hb

end

section
/-! PROOFS. The round trip of ENCODE and DECODE_MESSAGE (40_frame_encoder.md R138): after each frame but the last the accumulator
holds the first bytes of the payload, and the last frame brings the rest of it. -/

namespace Sys2Proof.Machine

/-- A message's frames are received one after the other. -/
theorem decodeMessage_concat {fs : List Bytes} {f : Bytes} {s t u : State} (hfs : decodeMessage fs s = .next t)
    (hf : receive f t = .next u) : decodeMessage (fs ++ [f]) s = .next u := by
  rw [decodeMessage, List.map_append, runOps_append _ _ s t hfs, List.map_singleton, runOps_singleton, exec_rxNotify, hf]

/-- An incomplete message of channel `ch`, command `c` and payload `p`: the accumulator holds the first `n` bytes of the payload
and expects frame number `k`, and no output came after `os`. -/
structure HoldsPrefix (ch : ChannelId) (c : Byte) (p : Bytes) (n k : Nat) (os : List Output) (t : State) : Prop where
  rx : t.rx = some { channel := ch, command := c, declaredLen := BitVec.ofNat 16 p.length, fill := BitVec.ofNat 16 n
                     expectedSeq := BitVec.ofNat 8 k }
  rising : (t.acc.map Prod.fst).Pairwise (· < ·)
  bytes : Memory.readBytes t.acc 0 n = p.take n
  outputs : t.outputs = os

/-- Sequence numbers below 128 do not end the sequence space (R172). -/
theorem ofNat_ne_endOfSequence {k : Nat} (hk : k < 128) : BitVec.ofNat 8 k ≠ 128#8 := by
  bv_omega

section
variable {ch : ChannelId} {c : Byte} {p : Bytes} (hlen : p.length ≤ 65535)
include hlen

/-- Lengths of a payload ENCODE accepts fit the 16-bit registers. -/
theorem toNat_ofNat_of_le_length {n : Nat} (hn : n ≤ p.length) : (BitVec.ofNat 16 n).toNat = n := by
  rw [BitVec.toNat_ofNat]
  omega

/-- An initial frame that carries all of the payload completes the message (R167). -/
theorem receive_wholePayload {s : State} {m : Nat} (hrx : s.rx = none) (hm : p.length ≤ m) :
    ∃ u, receive (initialFrame ch c (BitVec.ofNat 16 p.length) (p.take m)) s = .next u ∧
      u.rx = none ∧ u.outputs = s.outputs ++ [.messageReceived ch c p] := by
  have hdeclared := toNat_ofNat_of_le_length hlen le_rfl
  refine ⟨_, receive_initial_completes hrx ch c ?_, hrx, ?_⟩
  · rw [hdeclared, List.take_of_length_le hm]
  · simp only [hdeclared, List.take_of_length_le hm, List.take_length]

/-- An initial frame that carries less leaves its chunk in the accumulator (R170). -/
theorem HoldsPrefix.start {s : State} {m : Nat} (hrx : s.rx = none) (hm : m < p.length) :
    ∃ t, receive (initialFrame ch c (BitVec.ofNat 16 p.length) (p.take m)) s = .next t ∧
      HoldsPrefix ch c p m 0 s.outputs t := by
  have hchunk : (p.take m).length = m := List.length_take_of_le hm.le
  refine ⟨_, receive_initial_starts hrx ch c ?_, ?_, Memory.writeBytes_rising [] (by simp) _ _, ?_, rfl⟩
  · rw [hchunk, toNat_ofNat_of_le_length hlen le_rfl]
    exact hm
  · rw [hchunk]
    rfl
  · have hread := Memory.readBytes_fresh (p.take m)
    rwa [hchunk] at hread

variable {n k d : Nat} {os : List Output} {t : State} (h : HoldsPrefix ch c p n k os t) (hk : k < 128)
include h hk

/-- The frame expected next adds its chunk to them (R173). -/
theorem HoldsPrefix.extend (hd : n + d < p.length) :
    ∃ u, receive (continuationFrame ch (BitVec.ofNat 8 k) ((p.drop n).take d)) t = .next u ∧
      HoldsPrefix ch c p (n + d) (k + 1) os u := by
  have hfill : (BitVec.ofNat 16 n).toNat = n := toNat_ofNat_of_le_length hlen (by omega)
  have hchunk : ((p.drop n).take d).length = d := List.length_take_of_le (by rw [List.length_drop]; omega)
  refine ⟨_, receive_expected_appends h.rx (ofNat_ne_endOfSequence hk) ?_, ?_, ?_, ?_, h.outputs⟩
  · rw [hfill, hchunk, toNat_ofNat_of_le_length hlen le_rfl]
    exact hd
  · simp only [hfill, hchunk, BitVec.ofNat_add]
    rfl
  · exact Memory.writeBytes_rising _ h.rising _ _
  · have hread := Memory.readBytes_append t.acc h.rising n ((p.drop n).take d)
    rw [hchunk, h.bytes, ← List.take_add] at hread
    simpa only [hfill] using hread

/-- The frame expected next completes the message when it carries all the rest (R174). -/
theorem HoldsPrefix.finish (hn : n ≤ p.length) (hd : p.length ≤ n + d) :
    ∃ u, receive (continuationFrame ch (BitVec.ofNat 8 k) ((p.drop n).take d)) t = .next u ∧
      u.rx = none ∧ u.outputs = os ++ [.messageReceived ch c p] := by
  have hfill := toNat_ofNat_of_le_length hlen hn
  have hrest : (p.drop n).take d = p.drop n := List.take_of_length_le (by rw [List.length_drop]; omega)
  refine ⟨_, receive_expected_completes h.rx (ofNat_ne_endOfSequence hk) ?_, rfl, ?_⟩
  · rw [hfill, hrest, List.length_drop, toNat_ofNat_of_le_length hlen le_rfl]
    omega
  · simp only [hfill, hrest, h.bytes, h.outputs, List.take_append_drop]

end

/-- After the initial frame and `k` continuation frames, none of them the last, the accumulator holds what they carried. -/
theorem holdsPrefix_after {s : State} {c : Byte} {p : Bytes} {mtu : BitVec 16} (hrx : s.rx = none) (hmtu : 8 ≤ mtu.toNat)
    (hlen : p.length ≤ min 65535 (129 * mtu.toNat - 647)) (k : Nat) (hk : k < continuationsNeeded mtu p.length) :
    ∃ t, decodeMessage (initialFrame s.channelId c (BitVec.ofNat 16 p.length) (p.take (mtu.toNat - 7))
        :: (List.range k).map (continuationAt s.channelId p mtu)) s = .next t ∧
      HoldsPrefix s.channelId c p (mtu.toNat - 7 + k * (mtu.toNat - 5)) k s.outputs t := by
  obtain ⟨hcap, -⟩ := le_min_iff.mp hlen
  induction k with
  | zero =>
    obtain ⟨hbytes, -⟩ := continuationAt_bounds hmtu hk
    rw [Nat.zero_mul, Nat.add_zero] at hbytes ⊢
    obtain ⟨t, ht, hholds⟩ := HoldsPrefix.start hcap hrx hbytes
    exact ⟨t, decodeMessage_concat (fs := []) rfl ht, hholds⟩
  | succ k ih =>
    obtain ⟨t, ht, hholds⟩ := ih (by omega)
    have hcount := (continuationsNeeded_le_iff mtu hmtu p.length).mpr (by omega)
    obtain ⟨hbytes, -⟩ := continuationAt_bounds hmtu hk
    rw [Nat.add_one_mul k, ← Nat.add_assoc] at hbytes ⊢
    obtain ⟨u, hu, hholds'⟩ := hholds.extend hcap (by omega) hbytes
    rw [← continuationAt_eq] at hu
    rw [List.range_succ, List.map_append, List.map_singleton, ← List.cons_append]
    exact ⟨u, decodeMessage_concat ht hu, hholds'⟩

end Sys2Proof.Machine

open Sys2Proof Sys2Proof.Machine

/-- Settles O16, by whether a continuation frame is needed: without one the initial frame completes the message; with `n + 1` of
them the first `n` leave a message in progress, and the last completes it. -/
theorem roundTripOfEncodeAndReassemble : Obligations.RoundTripOfEncodeAndReassemble := by
  intro s command p mtu hrx hmtu hlen
  obtain ⟨hcap, -⟩ := le_min_iff.mp hlen
  have hencode := exec_encode_of_le hmtu hlen command s
  cases hneeded : continuationsNeeded mtu p.length with
  | zero =>
    have hfits : p.length ≤ mtu.toNat - 7 := by
      by_contra hlong
      obtain ⟨hpos, -⟩ := continuationsNeeded_bounds mtu hmtu p.length (by omega)
      omega
    obtain ⟨u, hu, hnone, hout⟩ := receive_wholePayload (ch := s.channelId) (c := command) hcap hrx hfits
    rw [hneeded] at hencode
    exact ⟨[], _, s, u, hencode, rfl, rfl, decodeMessage_concat (fs := []) rfl hu, hnone, hout⟩
  | succ n =>
    have hcount := (continuationsNeeded_le_iff mtu hmtu p.length).mpr (by omega)
    have hn : n < continuationsNeeded mtu p.length := by omega
    obtain ⟨hbytes, -⟩ := continuationAt_bounds hmtu hn
    obtain ⟨-, -, hall⟩ := continuationsNeeded_bounds mtu hmtu p.length (by omega)
    rw [hneeded, Nat.add_one_mul n, ← Nat.add_assoc] at hall
    obtain ⟨t, ht, hholds⟩ := holdsPrefix_after (c := command) hrx hmtu hlen n hn
    obtain ⟨u, hu, hnone, hout⟩ := hholds.finish hcap (by omega) hbytes.le hall
    rw [← continuationAt_eq] at hu
    rw [hneeded, List.range_succ, List.map_append, List.map_singleton, ← List.cons_append] at hencode
    exact ⟨_, _, t, u, hencode, ht, hholds.outputs, decodeMessage_concat ht hu, hnone, hout⟩

end

section
/-! PROOFS. The outbound sequencer over runs of operations: frames leave in list order (20_memory.md R71), any interleaving of
submissions and confirmations completes the session (43_outbound_sequencer.md R202); and who changes the session (R205). -/

namespace Sys2Proof.Machine

/-! Runs of TX_SUBMIT. -/

/-- As many submissions as the FIFO holds frames empty it, each output in its turn (20_memory.md R71). -/
theorem runOps_submit_all (fs : List Bytes) (s : State) (hfifo : s.txFifo = fs) :
    ∃ t, runOps (List.replicate fs.length .txSubmit) s = .next t ∧
      t.outputs = s.outputs ++ fs.map .submit ∧ t.txFifo = [] ∧
      t.txSubmitted = s.txSubmitted ∧ t.txAcked = s.txAcked ∧ t.txStatus = s.txStatus := by
  induction fs generalizing s with
  | nil => exact ⟨s, rfl, by simp, hfifo, rfl, rfl, rfl⟩
  | cons f fs ih =>
    obtain ⟨t, hrun, hout, hrest⟩ := ih (s.afterSubmit f fs) rfl
    refine ⟨t, ?_, ?_, hrest⟩
    · rw [List.length_cons, List.replicate_succ, runOps_cons_of_exec (exec_txSubmit hfifo), hrun]
    · rw [hout, List.map_cons, List.append_cons]
      rfl

/-! Interleavings of submissions and confirmations. -/

/-- A sequence with nothing left to hand over and nothing owed is over. -/
theorem Delivery.eq_nil {is : List Instr} (h : Delivery 0 0 is) : is = [] := by
  cases h
  rfl

/-- From a `Pending` session with `toSubmit` frames queued and `owed` handed over but not confirmed, the rest of a delivery
completes it: the queued frames come out in order, then the one event of the completion, at the clock of the last
confirmation (R202). -/
theorem Delivery.completes {toSubmit owed : Nat} {is : List Instr} (h : Delivery toSubmit owed is) (s : State)
    (hopen : 0 < toSubmit + owed) (hp : s.txStatus = .pending) (hqueued : s.txFifo.length = toSubmit)
    (hcount : s.txAcked.toNat + owed + toSubmit = s.txSubmitted.toNat) :
    ∃ (t : State) (last : BitVec 32) (ind : Bool) (rate : Option (BitVec 32)),
      (clockSamples is).getLast? = some last ∧ runOps is s = .next t ∧
      t.txStatus = .completed ∧ t.txAcked = s.txSubmitted ∧ t.txFifo = [] ∧
      t.outputs = s.outputs ++ s.txFifo.map .submit ++
        [.transferCompleted s.txTotalBytes (last - s.txStartTs) ind rate] := by
  induction h generalizing s with
  | nil => omega
  | @submit toSubmit owed is _ ih =>
    obtain ⟨f, fs, hfifo⟩ := List.exists_cons_of_length_eq_add_one hqueued
    rw [hfifo, List.length_cons, Nat.add_right_cancel_iff] at hqueued
    obtain ⟨t, last, ind, rate, hlast, hrun, hcompleted, hacked, hempty, hout⟩ :=
      ih (s.afterSubmit f fs) (by omega) hp hqueued (by simp; omega)
    refine ⟨t, last, ind, rate, hlast, ?_, hcompleted, hacked, hempty, ?_⟩
    · rw [runOps_cons_of_exec (exec_txSubmit hfifo), hrun]
    · rw [hout, hfifo, List.map_cons, List.append_cons s.outputs]
      rfl
  | @confirm toSubmit owed is x now hrest ih =>
    have hc : s.counted = true := s.counted_iff.mpr (.inl ⟨hp, by omega⟩)
    by_cases hlast : toSubmit + owed = 0
    · obtain ⟨rfl, rfl⟩ : toSubmit = 0 ∧ owed = 0 := by omega
      obtain rfl := hrest.eq_nil
      have hl : s.txAcked + 1 = s.txSubmitted := by bv_omega
      have hempty := List.eq_nil_of_length_eq_zero hqueued
      obtain ⟨m, hm⟩ : ∃ m, m = meterOf s.txTotalBytes s.txStartTs now := ⟨_, rfl⟩
      have hexec := exec_txConfirm_success_completes hc x now hp hl hm.symm
      have helapsed : m.elapsedMs = now - s.txStartTs := hm ▸ (meterOf_spec _ _ _).1
      refine ⟨_, now, m.indeterminate, m.rate, rfl, (runOps_singleton _ s).trans hexec, rfl, hl, hempty, ?_⟩
      rw [hempty, ← helapsed, List.map_nil, List.append_nil]
    · have hexec : exec (.txConfirm x false now) s = .next ((s.delivered x).countAck.setResult .done) :=
        exec_txConfirm_success_counts hc x now fun _ => by bv_omega
      have hacked : (s.txAcked + 1).toNat = s.txAcked.toNat + 1 := by bv_omega
      obtain ⟨t, last, ind, rate, hlast, hrun, hrest⟩ :=
        ih ((s.delivered x).countAck.setResult .done) (by omega) hp hqueued
          (show (s.txAcked + 1).toNat + owed + toSubmit = s.txSubmitted.toNat by omega)
      refine ⟨t, last, ind, rate, ?_, ?_, hrest⟩
      · rw [clockSamples, List.getLast?_cons, hlast, Option.getD_some]
      · rw [runOps_cons_of_exec hexec, hrun]

/-! Who changes the session (R205). -/

/-- The session, its FIFO and its counters hold in `t` what they hold in `s`. -/
abbrev SameSession (s t : State) : Prop :=
  t.txStatus = s.txStatus ∧ t.txFifo = s.txFifo ∧ t.txSubmitted = s.txSubmitted ∧ t.txAcked = s.txAcked ∧
    t.txStartTs = s.txStartTs ∧ t.txTotalBytes = s.txTotalBytes

theorem ReceiveStep.sameSession {s t : State} (h : ReceiveStep s t) : SameSession s t := by
  cases h <;> exact ⟨rfl, rfl, rfl, rfl, rfl, rfl⟩

/-- The parameters a start gives a session hold in `t` what they hold in `s` (10_state.md R32, R34, R35). -/
abbrev SameParameters (s t : State) : Prop :=
  t.txSubmitted = s.txSubmitted ∧ t.txStartTs = s.txStartTs ∧ t.txTotalBytes = s.txTotalBytes

theorem ConfirmStep.sameParameters {s t : State} {x : BitVec 8} {err : Bool} {now : BitVec 32}
    (h : ConfirmStep s x err now t) : SameParameters s t := by
  cases h <;> simp [SameParameters]

theorem sameParameters_abortSession (s : State) : SameParameters s s.abortSession := by
  obtain ⟨-, e⟩ | ⟨-, e⟩ := s.abortSession_cases <;> simp [SameParameters, e]

/-- A confirmation leaves the status as it is, or completes or fails a `Pending` session. -/
theorem ConfirmStep.status_cases {s t : State} {x : BitVec 8} {err : Bool} {now : BitVec 32}
    (h : ConfirmStep s x err now t) :
    s.txStatus = t.txStatus ∨ (s.txStatus = .pending ∧ t.txStatus = .completed ∧ err = false) ∨
      (s.txStatus = .pending ∧ t.txStatus = .failed ∧ err = true) := by
  cases h with
  | completes hp _ he => exact .inr (.inl ⟨hp, rfl, he⟩)
  | fails hp _ he => exact .inr (.inr ⟨hp, rfl, he⟩)
  | ignored | counts | late => exact .inl rfl

/-- A disconnect that changes the status fails a `Pending` session (46_link_config_ops.md R250). -/
theorem abortSession_status {s : State} (h : s.txStatus ≠ s.abortSession.txStatus) :
    s.txStatus = .pending ∧ s.abortSession.txStatus = .failed := by
  obtain ⟨hp, e⟩ | ⟨-, e⟩ := s.abortSession_cases
  · exact ⟨hp, by rw [e, State.failSession_txStatus]⟩
  · exact absurd (by rw [e]) h

/-- A buffer delivered is not the work of an operation of the send side. -/
theorem mayChangeSession_of_deliveredBuffer {i : Instr} {b : Bytes} (h : deliveredBuffer i = some b) :
    mayChangeSession i = false := by
  cases i with
  | rxNotify | frameInitial | frameContinuation | infoReport => rfl
  | _ => cases h

end Sys2Proof.Machine

open Sys2Proof Sys2Proof.Machine

/-- Settles O38, by induction on the FIFO. -/
theorem framesLeaveInListOrder : Obligations.FramesLeaveInListOrder :=
  fun s => runOps_submit_all s.txFifo s rfl

/-- Settles O40: two or more confirmations still to count, so this one is not the last. -/
theorem countedConfirmationAdvancesTheCount : Obligations.CountedConfirmationAdvancesTheCount := by
  intro s index now hp hlt hmore
  exact ⟨_, exec_txConfirm_success_counts (s.counted_iff.mpr (.inl ⟨hp, hlt⟩)) index now fun _ => by bv_omega⟩

/-- Settles O43: the start loads the session, and the delivery completes it. -/
theorem completionWhateverTheOrderOfConfirmations : Obligations.CompletionWhateverTheOrderOfConfirmations := by
  intro s frames total now is hp hd hdelivery
  have hstart := (exec_txStart_of_framesInDomain hd total now s).trans (beginSession_of_not_pending hp frames total now)
  obtain ⟨⟨hpos, hmax⟩, -⟩ := hd
  have hsubmitted : (BitVec.ofNat 8 frames.length).toNat = frames.length := by
    rw [BitVec.toNat_ofNat, Nat.mod_eq_of_lt (hmax.trans_lt (by decide))]
  rw [runOps_cons_of_exec hstart]
  exact hdelivery.completes _ (by omega) rfl rfl (by simp [hsubmitted])

/-- Settles O46, by the cases of `ExecStep`: a start, a counted confirmation, a disconnect and RESET reach the status. -/
theorem sessionStatusTransitions : Obligations.SessionStatusTransitions := by
  intro i s t h hne
  cases execStep_of_exec i s t h with
  | resets => exact .inl ⟨rfl, rfl⟩
  | starts _ hs => exact .inr (.inl ⟨hs, rfl, .inl ⟨_, _, _, rfl⟩⟩)
  | sends _ hs => exact .inr (.inl ⟨hs, rfl, .inr ⟨_, _, _, _, rfl⟩⟩)
  | confirms hc =>
    obtain hsame | ⟨hp, ht, rfl⟩ | ⟨hp, ht, rfl⟩ := hc.status_cases
    · exact absurd hsame hne
    · exact .inr (.inr (.inl ⟨hp, ht, _, _, rfl⟩))
    · exact .inr (.inr (.inr ⟨hp, ht, .inl ⟨_, _, rfl⟩⟩))
  | disconnects | disconnectsIdle =>
    obtain ⟨hp, hf⟩ := abortSession_status hne
    exact .inr (.inr (.inr ⟨hp, hf, .inr rfl⟩))
  | receives _ _ hr => exact absurd hr.sameSession.1.symm hne
  | _ => exact absurd rfl hne

/-- Settles O47, by the cases of `ExecStep`: an operation of the receive side touches neither the session nor the meter. -/
theorem onlySendOperationsChangeTheSession : Obligations.OnlySendOperationsChangeTheSession := by
  intro i s t h hkind
  cases execStep_of_exec i s t h with
  | receives _ _ hr =>
    obtain ⟨hstatus, hfifo, hsubmitted, hacked, hstart, htotal⟩ := hr.sameSession
    exact ⟨hstatus, hfifo, hsubmitted, hacked, hstart, htotal, hr.sameMeter⟩
  | starts | startBusy | submits | confirms | sends | sendBusy | sendFails | disconnects | disconnectsIdle | resets =>
    cases hkind
  | _ => exact ⟨rfl, rfl, rfl, rfl, rfl, rfl, rfl, rfl, rfl, rfl, rfl⟩

/-- Settles O48, by the cases of `ExecStep`: only a start and RESET write the three. -/
theorem sessionParametersChangeOnlyAtAStart : Obligations.SessionParametersChangeOnlyAtAStart := by
  intro i s t h
  cases execStep_of_exec i s t h with
  | resets => exact .inr (.inl rfl)
  | starts _ hs | sends _ hs => exact .inr (.inr ⟨hs, rfl⟩)
  | confirms hc => exact .inl hc.sameParameters
  | disconnects | disconnectsIdle => exact .inl (sameParameters_abortSession s)
  | receives _ _ hr =>
    obtain ⟨-, -, hsubmitted, -, hstart, htotal⟩ := hr.sameSession
    exact .inl ⟨hsubmitted, hstart, htotal⟩
  | _ => exact .inl ⟨rfl, rfl, rfl⟩

end

section
/-! PROOFS. Rules of the whole machine: who writes `CHANNEL_ID` (10_state.md R23), one output per operation and an error exactly
with its event (60_exceptions.md R265, R279), which operations complete (R105, R194, R195), and that the receive side and the
send side commute (20_memory.md R74). -/

namespace Sys2Proof.Machine

/-! `CHANNEL_ID` (R23). -/

theorem ReceiveStep.channelId_eq {s t : State} (h : ReceiveStep s t) : t.channelId = s.channelId := by
  cases h <;> rfl

theorem ConfirmStep.channelId_eq {s t : State} {x : BitVec 8} {err : Bool} {now : BitVec 32}
    (h : ConfirmStep s x err now t) : t.channelId = s.channelId := by
  cases h <;> rfl

@[simp] theorem State.abortSession_channelId (s : State) : s.abortSession.channelId = s.channelId := by
  obtain ⟨-, e⟩ | ⟨-, e⟩ := s.abortSession_cases <;> simp [e]

/-! What one operation reports (R265, R279). -/

@[simp] theorem State.abortSession_outputs (s : State) : s.abortSession.outputs = s.outputs := by
  obtain ⟨-, e⟩ | ⟨-, e⟩ := s.abortSession_cases <;> simp [e]

/-- From `s` to `t` at most one item came out, and the result is an error exactly when the item is its event. -/
abbrev Reports (s t : State) : Prop :=
  ∃ outs : List Output, t.outputs = s.outputs ++ outs ∧ outs.length ≤ 1 ∧ ∀ e, t.result = .error e ↔ outs = [.error e]

section
variable {s t : State}

theorem Reports.of_quiet (hout : t.outputs = s.outputs) (hres : ∀ e, t.result ≠ .error e) : Reports s t :=
  ⟨[], by rw [hout, List.append_nil], Nat.zero_le 1, fun e => by simp [hres e]⟩

theorem Reports.of_item {o : Output} (hout : t.outputs = s.outputs ++ [o]) (ho : ∀ e, o ≠ .error e)
    (hres : ∀ e, t.result ≠ .error e) : Reports s t :=
  ⟨[o], hout, le_rfl, fun e => by simp [hres e, ho e]⟩

theorem Reports.of_error {e : BlockError} (hout : t.outputs = s.outputs ++ [.error e]) (hres : t.result = .error e) :
    Reports s t :=
  ⟨[.error e], hout, le_rfl, fun e' => by simp [hres]⟩

theorem ReceiveStep.reports (h : ReceiveStep s t) : Reports s t := by
  cases h with
  | error | discard => exact .of_error rfl rfl
  | atOnce | complete => exact .of_item rfl nofun nofun
  | start | append => exact .of_quiet rfl nofun

theorem ConfirmStep.reports {x : BitVec 8} {err : Bool} {now : BitVec 32} (h : ConfirmStep s x err now t) :
    Reports s t := by
  cases h with
  | fails | late => exact .of_error rfl rfl
  | completes => exact .of_item rfl nofun nofun
  | ignored | counts => exact .of_quiet rfl nofun

end

/-! Completion (R265). -/

theorem answer_completes {α : Type} (k : α → OpResult) (x : Except BlockError α) (s : State) :
    ∃ t, answer k x s = .next t := by
  cases x with
  | ok => exact ⟨_, answer_ok ..⟩
  | error => exact ⟨_, answer_error ..⟩

theorem abandonRx_completes (s : State) : ∃ t, abandonRx s = .next t := by
  cases hrx : s.rx with
  | none => exact ⟨_, abandonRx_of_none hrx⟩
  | some a => exact ⟨_, abandonRx_of_isSome (by rw [hrx, Option.isSome_some])⟩

theorem exec_completes_of_deliveredBuffer {i : Instr} {b : Bytes} (h : deliveredBuffer i = some b) (s : State) :
    ∃ t, exec i s = .next t := by
  obtain ⟨t, ht, -⟩ := receive_step b s
  exact ⟨t, (exec_of_deliveredBuffer i b s h).trans ht⟩

theorem exec_send_completes (c : Byte) (p : Bytes) (mtu : BitVec 16) (now : BitVec 32) (s : State) :
    ∃ t, exec (.send c p mtu now) s = .next t := by
  cases hcut : cutMessage s.channelId c p mtu with
  | error e => exact ⟨_, exec_send_of_cutMessage_error hcut now⟩
  | ok fs =>
    rw [exec_send_of_cutMessage_ok hcut]
    exact beginSession_completes fs _ now s

theorem exec_txSubmit_empty {s : State} (h : s.txFifo = []) : exec .txSubmit s = .refused .submitNotEnabled := by
  simp only [exec, execTxSubmit, h]

/-! The receive side reads and writes `rx` and ACC, the send side everything else of the block; both report (R74). -/

/-- A buffer received with the accumulator `a₀` and the bytes `m₀` in ACC has one effect, whatever the rest of the state. -/
theorem receive_local (b : Bytes) (a₀ : Option Accumulator) (m₀ : Memory) :
    ∃ (a : Option Accumulator) (m : Memory) (r : OpResult) (x : List Output), ∀ u : State,
      receive b { u with rx := a₀, acc := m₀ } = .next { u with
        rx := a, acc := m, result := r, outputs := u.outputs ++ x } := by
  have hquiet (u : State) (a m r) : ({ u with rx := a, acc := m, result := r } : State) =
      { u with rx := a, acc := m, result := r, outputs := u.outputs ++ [] } := by rw [List.append_nil]
  cases a₀ with
  | none =>
    obtain hshort | hlong := Nat.lt_or_ge b.length 7
    · exact ⟨_, _, _, _, fun u => receive_short_none _ b rfl hshort⟩
    · obtain ⟨ch, c, len, x, rfl, -⟩ := initialFrame_of_length b hlong
      obtain hmore | hfits := Nat.lt_or_ge x.length len.toNat
      · exact ⟨_, _, _, [], fun u => (receive_initial_starts rfl ch c hmore).trans (congrArg _ (hquiet u _ _ _))⟩
      · exact ⟨_, _, _, _, fun u => receive_initial_completes rfl ch c hfits⟩
  | some a =>
    obtain hshort | hlong := Nat.lt_or_ge b.length 5
    · exact ⟨_, _, _, _, fun u => receive_short_some _ a b rfl hshort⟩
    by_cases hch : b.take 4 = a.channel.bytes
    · obtain ⟨q, x, rfl⟩ := continuationFrame_of_take4 hlong hch
      by_cases hseq : a.expectedSeq = 128#8 ∨ q ≠ a.expectedSeq
      · exact ⟨_, _, _, _, fun u => receive_outOfOrder rfl hseq⟩
      · obtain ⟨h128, rfl⟩ : a.expectedSeq ≠ 128#8 ∧ q = a.expectedSeq := by simpa using hseq
        obtain hshort | hall | hover := Nat.lt_trichotomy (a.fill.toNat + x.length) a.declaredLen.toNat
        · exact ⟨_, Memory.writeBytes m₀ a.fill.toNat x, _, [], fun u =>
            (receive_expected_appends rfl h128 hshort).trans (congrArg _ (hquiet u _ _ _))⟩
        · exact ⟨_, _, _, [.messageReceived a.channel a.command (Memory.readBytes m₀ 0 a.fill.toNat ++ x)],
            fun u => receive_expected_completes rfl h128 hall⟩
        · exact ⟨_, _, _, _, fun u => receive_expected_overlong rfl h128 hover⟩
    · exact ⟨_, _, _, _, fun u => receive_otherChannel rfl hlong hch⟩

/-- A confirmation has one effect on the send side, whatever the accumulator, ACC, the last result and the outputs so far. -/
theorem exec_txConfirm_local (x : BitVec 8) (err : Bool) (now : BitVec 32) (s : State) :
    ∃ (w : State) (y : List Output), ∀ (a : Option Accumulator) (m : Memory) (r : OpResult) (os : List Output),
      exec (.txConfirm x err now) { s with rx := a, acc := m, result := r, outputs := os } =
        .next { w with rx := a, acc := m, outputs := os ++ y } := by
  have hcounted (a m r os) : State.counted { s with rx := a, acc := m, result := r, outputs := os } = s.counted := rfl
  cases hc : s.counted with
  | false =>
    refine ⟨(s.delivered x).setResult .done, [], fun a m r os => ?_⟩
    rw [List.append_nil]
    exact exec_txConfirm_ignored ((hcounted a m r os).trans hc) x err now
  | true =>
    cases err with
    | true =>
      obtain hp | hf := s.status_of_counted hc
      · exact ⟨((s.delivered x).countAck.failSession).setResult (.error (.writeFailed x)), _,
          fun a m r os => exec_txConfirm_error_of_pending ((hcounted a m r os).trans hc) x now hp⟩
      · exact ⟨(s.delivered x).countAck.setResult (.error (.writeFailed x)), _,
          fun a m r os => exec_txConfirm_error_of_failed ((hcounted a m r os).trans hc) x now hf⟩
    | false =>
      by_cases hlast : s.txStatus = .pending ∧ s.txAcked + 1 = s.txSubmitted
      · obtain ⟨hp, hl⟩ := hlast
        obtain ⟨v, hv⟩ : ∃ v, meterOf s.txTotalBytes s.txStartTs now = v := ⟨_, rfl⟩
        exact ⟨((s.delivered x).countAck.completeSession v).setResult .done,
          [.transferCompleted s.txTotalBytes v.elapsedMs v.indeterminate v.rate],
          fun a m r os => exec_txConfirm_success_completes ((hcounted a m r os).trans hc) x now hp hl hv⟩
      · refine ⟨(s.delivered x).countAck.setResult .done, [], fun a m r os => ?_⟩
        rw [List.append_nil]
        exact exec_txConfirm_success_counts ((hcounted a m r os).trans hc) x now (not_and.mp hlast)

end Sys2Proof.Machine

open Sys2Proof Sys2Proof.Machine

/-- Settles O53, by the cases of `ExecStep`: CFG_SET_CHANNEL and RESET are the two that write it. -/
theorem onlyConfigurationChangesChannelId : Obligations.OnlyConfigurationChangesChannelId := by
  intro i s t h hne
  cases execStep_of_exec i s t h with
  | setsChannel => exact .inl ⟨_, rfl, rfl⟩
  | resets => exact .inr ⟨rfl, rfl⟩
  | receives _ _ hr => exact absurd hr.channelId_eq hne
  | confirms hc => exact absurd hc.channelId_eq hne
  | disconnects | disconnectsIdle => exact absurd s.abortSession_channelId hne
  | _ => exact absurd rfl hne

/-- Settles O54, by the cases of `ExecStep`: an operation is quiet, or outputs one item, or raises one error. -/
theorem oneOutputAndErrorsAreBoth : Obligations.OneOutputAndErrorsAreBoth := by
  intro i s t h
  cases execStep_of_exec i s t h with
  | receives _ _ hr => exact hr.reports
  | confirms hc => exact hc.reports
  | submits => exact Reports.of_item rfl nofun nofun
  | encodeFails | decodeInitialFails | decodeContFails | startBusy | sendFails | sendBusy | timesOut =>
    exact Reports.of_error rfl rfl
  | disconnects => exact Reports.of_error (congrArg (· ++ _) s.abortSession_outputs) rfl
  | disconnectsIdle => exact Reports.of_quiet s.abortSession_outputs nofun
  | _ => exact Reports.of_quiet rfl nofun

/-- Settles O55, by the cases of the instruction. -/
theorem everyOtherOperationCompletes : Obligations.EveryOtherOperationCompletes := by
  intro i s
  cases i with
  | reserved0 | reservedD | reservedE => exact ⟨fun _ => ⟨_, rfl⟩, fun h => absurd trivial h⟩
  | txStart fs total now =>
    refine ⟨fun hd => ⟨_, exec_txStart_outsideDomain hd total now s⟩, fun hd => ?_⟩
    rw [exec_txStart_of_framesInDomain (not_not.mp hd)]
    exact beginSession_completes fs total now s
  | txSubmit =>
    refine ⟨fun hempty => ⟨_, exec_txSubmit_empty hempty⟩, fun hne => ?_⟩
    obtain ⟨f, rest, hfifo⟩ := List.exists_cons_of_ne_nil hne
    exact ⟨_, exec_txSubmit hfifo⟩
  | encode c p mtu => exact ⟨False.elim, fun _ => exec_encode c p mtu s ▸ answer_completes ..⟩
  | decodeInitial f ch => exact ⟨False.elim, fun _ => exec_decodeInitial f ch s ▸ answer_completes ..⟩
  | decodeCont f ch => exact ⟨False.elim, fun _ => exec_decodeCont f ch s ▸ answer_completes ..⟩
  | rxTimeout => exact ⟨False.elim, fun _ => abandonRx_completes s⟩
  | linkDisconnect => exact ⟨False.elim, fun _ => abandonRx_completes s.abortSession⟩
  | txConfirm x err now =>
    obtain ⟨t, ht, -⟩ := execTxConfirm_step x err now s
    exact ⟨False.elim, fun _ => ⟨t, ht⟩⟩
  | send c p mtu now => exact ⟨False.elim, fun _ => exec_send_completes c p mtu now s⟩
  | meter | cfgSetChannel | reset => exact ⟨False.elim, fun _ => ⟨_, rfl⟩⟩
  | rxNotify | frameInitial | frameContinuation | infoReport =>
    exact ⟨False.elim, fun _ => exec_completes_of_deliveredBuffer rfl s⟩

/-- Settles O57: each of the two has its own effect, whatever the other has written before. -/
theorem notificationAndConfirmationCommute : Obligations.NotificationAndConfirmationCommute := by
  intro s b index err now
  obtain ⟨a, m, r, x, hnotify⟩ := receive_local b s.rx s.acc
  obtain ⟨w, y, hconfirm⟩ := exec_txConfirm_local index err now s
  refine ⟨{ w with rx := a, acc := m, outputs := s.outputs ++ x ++ y },
    { w with rx := a, acc := m, result := r, outputs := s.outputs ++ y ++ x }, x, y, ?_, ?_, rfl, rfl, rfl⟩
  · rw [runOps_cons_of_exec ((exec_rxNotify b s).trans (hnotify s)), runOps_singleton]
    exact hconfirm a m r (s.outputs ++ x)
  · rw [runOps_cons_of_exec (hconfirm s.rx s.acc s.result s.outputs), runOps_singleton]
    exact (exec_rxNotify b _).trans (hnotify { w with outputs := s.outputs ++ y })

end

section
/-! PROOFS. The invariant of the block (10_state.md R27 to R29, R31, R36, R37): it holds at reset, and each of its parts is kept by
every operation, so by every step. -/

namespace Sys2Proof.Machine

theorem inv_reset : Inv State.reset := by
  simp [Inv, RxInv, TxInv, MeterInv, Memory.wf, State.level]

/-! The reassembler's part (R27 to R29), and the canonical form of ACC, which follows from it (assumption log entry 9). -/

/-- Addresses that are exactly those below the fill level rise strictly and stay inside the space. -/
theorem memory_wf_of_rxInv {s : State} (hinv : RxInv s) : Memory.wf s.acc := by
  cases hrx : s.rx with
  | none =>
    have hempty : s.acc = [] := by simpa only [RxInv, hrx] using hinv
    rw [hempty]
    exact ⟨List.Pairwise.nil, nofun⟩
  | some a =>
    obtain ⟨haddrs, hfill, -⟩ := rxInv_some hinv hrx
    refine ⟨haddrs ▸ List.pairwise_lt_range, fun c hc => ?_⟩
    have hmem := List.mem_map_of_mem (f := Prod.fst) hc
    rw [haddrs, List.mem_range] at hmem
    have := a.declaredLen.isLt
    simp only [Config.accCap]
    omega

/-- A fill level below a declared length fits its register. -/
theorem toNat_ofNat_of_lt_declared {n : Nat} {len : BitVec 16} (h : n < len.toNat) : (BitVec.ofNat 16 n).toNat = n := by
  rw [BitVec.toNat_ofNat, Nat.mod_eq_of_lt (h.trans len.isLt)]

theorem RxInv.of_sameRx {s t : State} (hinv : RxInv s) (h : SameRx s t) : RxInv t := by
  obtain ⟨hrx, hacc⟩ := h
  simpa only [RxInv, hrx, hacc] using hinv

theorem ReceiveStep.rxInv {s t : State} (h : ReceiveStep s t) (hinv : RxInv s) : RxInv t := by
  cases h with
  | error | atOnce => exact hinv
  | discard | complete => rfl
  | start f _ hl =>
    have hfill := toNat_ofNat_of_lt_declared hl
    refine ⟨?_, hfill.trans_lt hl, Nat.zero_le _⟩
    exact hfill.symm ▸ (Memory.writeBytes_run [] 0 f.chunk rfl).trans (by rw [Nat.zero_add])
  | append a x hs h128 hl =>
    obtain ⟨haddrs, -, hseq⟩ := rxInv_some hinv hs
    have hfill := toNat_ofNat_of_lt_declared hl
    refine ⟨?_, hfill.trans_lt hl, ?_⟩
    · exact hfill.symm ▸ Memory.writeBytes_run s.acc a.fill.toNat x haddrs
    · show (a.expectedSeq + 1).toNat ≤ 128
      bv_omega

theorem State.abortSession_sameRx (s : State) : SameRx s s.abortSession := by
  obtain ⟨-, e⟩ | ⟨-, e⟩ := s.abortSession_cases <;> simp [SameRx, e]

theorem ExecStep.rxInv {s t : State} {i : Instr} (h : ExecStep s i t) (hinv : RxInv s) : RxInv t := by
  cases h with
  | receives _ _ hr => exact hr.rxInv hinv
  | timesOut | disconnects | resets => rfl
  | disconnectsIdle => exact hinv.of_sameRx s.abortSession_sameRx
  | confirms hc => exact hinv.of_sameRx hc.sameRx
  | _ => exact hinv

/-! The sequencer's part (R31, R36). -/

theorem TxInv.of_sameSession {s t : State} (hinv : TxInv s) (h : SameSession s t) : TxInv t := by
  obtain ⟨hstatus, hfifo, hsubmitted, hacked, -, -⟩ := h
  simpa only [TxInv, State.level, State.handed, hstatus, hfifo, hsubmitted, hacked] using hinv

/-- A start in its domain (R191, R194). -/
theorem txInv_loadSession (s : State) {fs : List Bytes} (hd : framesInDomain fs) (total : BitVec 16) (now : BitVec 32) :
    TxInv (s.loadSession fs total now) := by
  obtain ⟨⟨hpos, hmax⟩, hsizes⟩ := hd
  have hsubmitted : (BitVec.ofNat 8 fs.length).toNat = fs.length := by
    rw [BitVec.toNat_ofNat, Nat.mod_eq_of_lt (hmax.trans_lt (by decide))]
  exact ⟨⟨Nat.zero_le _, hsubmitted.trans_le hmax⟩, ⟨hsubmitted.ge, fun _ => rfl⟩, nofun, nofun,
    fun _ => ⟨hpos.trans hsubmitted.ge, Nat.zero_le _⟩, hsizes⟩

/-- Handing over the head of the FIFO (R195). -/
theorem TxInv.popFrame {s : State} {f : Bytes} {rest : List Bytes} (hinv : TxInv s) (hfifo : s.txFifo = f :: rest) :
    TxInv (s.popFrame rest) := by
  obtain ⟨hcounts, ⟨hlevel, hqueued⟩, -, -, hpending, hsizes⟩ := hinv
  have hlen : s.level = rest.length + 1 := by rw [State.level, hfifo, List.length_cons]
  have hp : s.txStatus = .pending := hqueued (by omega)
  obtain ⟨hopen, hacked⟩ := hpending hp
  have hhanded := s.handed_of_fifo_eq_cons hfifo
  refine ⟨hcounts, ⟨?_, fun _ => hp⟩, ?_, ?_, fun _ => ⟨hopen, ?_⟩, fun g hg => hsizes g ?_⟩
  · show rest.length ≤ s.txSubmitted.toNat
    omega
  · simp [hp]
  · simp [hp]
  · show s.txAcked.toNat ≤ s.txSubmitted.toNat - rest.length
    omega
  · rw [hfifo]
    exact List.mem_cons_of_mem f hg

/-- A failed session whose count is still within what was submitted (R200, R250). -/
theorem txInv_of_failed {s : State} (hf : s.txStatus = .failed) (hfifo : s.txFifo = [])
    (hle : s.txAcked.toNat ≤ s.txSubmitted.toNat) (hmax : s.txSubmitted.toNat ≤ 129) : TxInv s := by
  simp [TxInv, State.level, hf, hfifo, hle, hmax]

/-- A completed session: all submitted, all counted (R201). -/
theorem txInv_of_completed {s : State} (hc : s.txStatus = .completed) (hfifo : s.txFifo = [])
    (hall : s.txAcked = s.txSubmitted) (hpos : 1 ≤ s.txSubmitted.toNat) (hmax : s.txSubmitted.toNat ≤ 129) : TxInv s := by
  simp [TxInv, State.level, hc, hfifo, hall, hpos, hmax]

theorem TxInv.abortSession {s : State} (hinv : TxInv s) : TxInv s.abortSession := by
  obtain ⟨-, e⟩ | ⟨-, e⟩ := s.abortSession_cases <;> rw [e]
  · obtain ⟨⟨hle, hmax⟩, -⟩ := hinv
    exact txInv_of_failed rfl rfl hle hmax
  · exact hinv

/-- A failed session has no frame queued. -/
theorem TxInv.fifo_of_failed {s : State} (hinv : TxInv s) (hf : s.txStatus = .failed) : s.txFifo = [] := by
  obtain ⟨-, ⟨-, hqueued⟩, -⟩ := hinv
  refine List.eq_nil_of_length_eq_zero (Nat.eq_zero_of_not_pos fun hpos => ?_)
  exact absurd (hf.symm.trans (hqueued hpos)) nofun

/-- A counted confirmation does not take the count past what was submitted. -/
theorem toNat_txAcked_add_one {s : State} (hc : s.counted = true) :
    (s.txAcked + 1).toNat = s.txAcked.toNat + 1 ∧ s.txAcked.toNat + 1 ≤ s.txSubmitted.toNat := by
  have hlt : s.txAcked.toNat < s.txSubmitted.toNat := by
    obtain ⟨-, h⟩ | ⟨-, h⟩ := s.counted_iff.mp hc <;> omega
  exact ⟨by bv_omega, hlt⟩

/-- A confirmation counted in a `Pending` session is for a frame handed over (R199). -/
theorem lt_handed_of_counted {s : State} (hc : s.counted = true) (hp : s.txStatus = .pending) :
    s.txAcked.toNat < s.txSubmitted.toNat - s.txFifo.length := by
  obtain ⟨-, h⟩ | ⟨hf, -⟩ := s.counted_iff.mp hc
  · exact h
  · simp [hp] at hf

/-! The three ways a confirmation is counted (R198, R200, R201). -/

theorem TxInv.countAck_failSession {s : State} (hinv : TxInv s) (hc : s.counted = true) :
    TxInv s.countAck.failSession := by
  obtain ⟨⟨-, hmax⟩, -⟩ := hinv
  obtain ⟨hnext, hle⟩ := toNat_txAcked_add_one hc
  exact txInv_of_failed rfl rfl (hnext.trans_le hle) hmax

theorem TxInv.countAck_completeSession {s : State} (hinv : TxInv s) (hc : s.counted = true) (hp : s.txStatus = .pending)
    (hl : s.txAcked + 1 = s.txSubmitted) (m : MeterResult) : TxInv (s.countAck.completeSession m) := by
  obtain ⟨⟨-, hmax⟩, -⟩ := hinv
  obtain ⟨hnext, hle⟩ := toNat_txAcked_add_one hc
  have hhanded := lt_handed_of_counted hc hp
  have hempty : s.txFifo = [] := List.eq_nil_of_length_eq_zero (by rw [hl] at hnext; omega)
  exact txInv_of_completed rfl hempty hl (Nat.le_of_add_left_le hle) hmax

theorem TxInv.countAck {s : State} (hinv : TxInv s) (hc : s.counted = true)
    (hl : s.txStatus = .pending → s.txAcked + 1 ≠ s.txSubmitted) : TxInv s.countAck := by
  obtain ⟨hnext, hle⟩ := toNat_txAcked_add_one hc
  have hfailed := hinv.fifo_of_failed
  obtain ⟨⟨-, hmax⟩, hfifo, -, -, -, hsizes⟩ := hinv
  obtain hp | hf := s.status_of_counted hc
  · have hhanded := lt_handed_of_counted hc hp
    have hmore := hl hp
    refine ⟨⟨hnext.trans_le hle, hmax⟩, hfifo, ?_, ?_, fun _ => ⟨?_, hnext.trans_le hhanded⟩, hsizes⟩
    · simp [hp]
    · simp [hp]
    · show (s.txAcked + 1).toNat < s.txSubmitted.toNat
      bv_omega
  · exact txInv_of_failed hf (hfailed hf) (hnext.trans_le hle) hmax

theorem ConfirmStep.txInv {s t : State} {x : BitVec 8} {err : Bool} {now : BitVec 32} (h : ConfirmStep s x err now t)
    (hinv : TxInv s) : TxInv t := by
  cases h with
  | ignored => exact hinv.of_sameSession ⟨rfl, rfl, rfl, rfl, rfl, rfl⟩
  | fails _ hc => exact (hinv.countAck_failSession hc).of_sameSession ⟨rfl, rfl, rfl, rfl, rfl, rfl⟩
  | completes hp hc _ hl m =>
    exact (hinv.countAck_completeSession hc hp hl m).of_sameSession ⟨rfl, rfl, rfl, rfl, rfl, rfl⟩
  | counts _ hc _ hl => exact (hinv.countAck hc hl).of_sameSession ⟨rfl, rfl, rfl, rfl, rfl, rfl⟩
  | late hf hc => exact (hinv.countAck hc (by simp [hf])).of_sameSession ⟨rfl, rfl, rfl, rfl, rfl, rfl⟩

theorem ExecStep.txInv {s t : State} {i : Instr} (h : ExecStep s i t) (hinv : TxInv s) : TxInv t := by
  cases h with
  | receives _ _ hr => exact hinv.of_sameSession hr.sameSession
  | @starts _ total now hd => exact txInv_loadSession s hd total now
  | @sends _ p _ now _ h =>
    exact txInv_loadSession s (framesInDomain_of_cutMessage _ _ _ _ _ h) (BitVec.ofNat 16 p.length) now
  | submits hfifo => exact hinv.popFrame hfifo
  | confirms hc => exact hc.txInv hinv
  | disconnects | disconnectsIdle => exact hinv.abortSession
  | resets =>
    obtain ⟨-, htx, -⟩ := inv_reset
    exact htx
  | _ => exact hinv

/-! The meter's part (R37). -/

theorem MeterInv.of_sameMeter {s t : State} (hinv : MeterInv s) (h : SameMeter s t) : MeterInv t := by
  obtain ⟨hvalid, htotal, helapsed, hind, hrate⟩ := h
  simpa only [MeterInv, hvalid, htotal, helapsed, hind, hrate] using hinv

/-- A completion latches a result of the meter (R201, R223). -/
theorem meterInv_completeSession (s : State) (total : BitVec 16) (start now : BitVec 32) :
    MeterInv (s.completeSession (meterOf total start now)) := by
  obtain ⟨-, hrate, hzero⟩ := meterOf_spec total start now
  exact ⟨nofun, fun _ => ⟨rfl, rfl, rfl, by simpa using hrate, by simpa using hzero⟩⟩

theorem ConfirmStep.meterInv {s t : State} {x : BitVec 8} {err : Bool} {now : BitVec 32} (h : ConfirmStep s x err now t)
    (hinv : MeterInv s) : MeterInv t := by
  cases h with
  | completes _ _ _ _ m hm =>
    subst hm
    exact meterInv_completeSession (s.delivered x).countAck _ _ _
  | ignored | fails | counts | late => exact hinv.of_sameMeter (by simp [SameMeter])

theorem ExecStep.meterInv {s t : State} {i : Instr} (h : ExecStep s i t) (hinv : MeterInv s) : MeterInv t := by
  cases h with
  | receives _ _ hr => exact hinv.of_sameMeter hr.sameMeter
  | confirms hc => exact hc.meterInv hinv
  | disconnects | disconnectsIdle => exact hinv.of_sameMeter (sameMeter_abortSession s)
  | resets =>
    obtain ⟨-, -, hmeter, -⟩ := inv_reset
    exact hmeter
  | _ => exact hinv

/-! All of it, for an operation and for a step. -/

theorem inv_of_exec {s t : State} {i : Instr} (hinv : Inv s) (h : exec i s = .next t) : Inv t := by
  obtain ⟨hrx, htx, hmeter, -⟩ := hinv
  have hstep := execStep_of_exec i s t h
  have hrx' := hstep.rxInv hrx
  exact ⟨hrx', hstep.txInv htx, hstep.meterInv hmeter, memory_wf_of_rxInv hrx'⟩

/-- A step is an operation or a register's read on the state with less presented, or leaves the state as it is. -/
theorem step_cases {s t : State} (h : step s = .next t) :
    (∃ i later, exec i (s.setPort later) = .next t) ∨ exec .txSubmit s = .next t ∨
    (∃ n later, readRegister n (s.setPort later) = .next t) ∨ t = s := by
  cases hport : s.port with
  | nil =>
    cases hfifo : s.txFifo with
    | nil =>
      rw [step_quiescent hport hfifo] at h
      cases h
      exact .inr (.inr (.inr rfl))
    | cons f rest => exact .inr (.inl (step_internal hport hfifo ▸ h))
  | cons x later =>
    cases x with
    | readRegister n => exact .inr (.inr (.inl ⟨n, later, step_readRegister hport ▸ h⟩))
    | transaction port bytes =>
      cases hdec : decode port bytes with
      | error e =>
        rw [step_rejected hport hdec] at h
        cases h
      | ok x => exact .inl ⟨_, later, step_transaction hport hdec ▸ h⟩

theorem inv_setPort {s : State} (hinv : Inv s) (later : List Presented) : Inv (s.setPort later) := hinv

/-- A read of a register touches nothing the invariant speaks of (20_memory.md R67). -/
theorem inv_of_readRegister {s t : State} {n : Nat} (hinv : Inv s) (h : readRegister n s = .next t) : Inv t := by
  unfold readRegister at h
  split at h <;> cases h
  exact hinv

end Sys2Proof.Machine

open Sys2Proof Sys2Proof.Machine

/-- Settles O58: at reset there is no accumulator, no session and no result of the meter. -/
theorem resetMeetsTheInvariant : Obligations.ResetMeetsTheInvariant := inv_reset

/-- Settles O59: whatever a step does it does by one operation, by a register's read, or not at all. -/
theorem everyStepKeepsTheInvariant : Obligations.EveryStepKeepsTheInvariant := by
  intro s t hinv h
  obtain ⟨i, later, hexec⟩ | hexec | ⟨n, later, hread⟩ | rfl := step_cases h
  · exact inv_of_exec (inv_setPort hinv later) hexec
  · exact inv_of_exec hinv hexec
  · exact inv_of_readRegister (inv_setPort hinv later) hread
  · exact hinv

end
